-- ==== Sys2Proof/Word.lean ====
section
/-! DEFINITION. The word types of B58CHK. Every quantity of the block is unsigned (spec/00_scope.md R8). -/

namespace Sys2Proof

/-- One 8-bit symbol, payload byte, digest byte or kind code (R8, R52, R53, R57). -/
abbrev Byte := BitVec 8

/-- One 16-bit command word, `cmd[15:0]` (R34, R50). -/
abbrev CmdWord := BitVec 16

/-- One 64-bit lane of the hash core (R106). -/
abbrev Lane := BitVec 64

end Sys2Proof
end

