-- ==== Sys2Proof/Config.lean ====
section
/-! DEFINITION. What an implementation fixes (spec/00_scope.md R7), and the values the spec leaves open. -/

namespace Sys2Proof

/-- The recognised network kinds (R56). -/
inductive NetworkKind where
  | mainnet
  | testnet
  | stagenet
deriving DecidableEq, Repr

/-- What the decoder does with a block whose value needs more than its 8 (tail: 7) bytes (R87, decision D9). -/
inductive Overflow where
  /-- Keep the low 64 (tail: 56) bits and raise nothing; the default. -/
  | truncate
  /-- Raise Reject(ALPHABET); the alternative value of the parameter. -/
  | reject
deriving DecidableEq, Repr

/-- The model's parameters, fixed before reset and never changed (R7, R143 (d)): `PREFIX_TABLE` (R24, R95),
`HASH`, a total function from byte strings to 32 bytes (R97, R105), and `OVERFLOW` (R87). -/
structure Params where
  prefixTable : NetworkKind → Vector Byte 3
  hash : List Byte → Vector Byte 32
  overflow : Overflow

namespace Config

/-- `ADDR_LEN`: characters of an address (R7). -/
abbrev addrLen : Nat := 98
/-- `FULL_BLOCKS` (R7; spec/90_conflicts.md C1 corrects the source's "ten"). -/
abbrev fullBlocks : Nat := 8
/-- `FULL_CHARS` (R7). -/
abbrev fullChars : Nat := 11
/-- `FULL_BYTES` (R7). -/
abbrev fullBytes : Nat := 8
/-- `TAIL_CHARS` (R7). -/
abbrev tailChars : Nat := 10
/-- `TAIL_BYTES` (R7). -/
abbrev tailBytes : Nat := 7
/-- `PAYLOAD_LEN` (R7). -/
abbrev payloadLen : Nat := 71
/-- `PREFIX_LEN` (R7). -/
abbrev prefixLen : Nat := 3
/-- `KEYS_LEN`: two 32-byte keys (R7). -/
abbrev keysLen : Nat := 64
/-- `CHECKSUM_LEN` (R7). -/
abbrev checksumLen : Nat := 4
/-- `PSV_LEN`: all of the payload but the checksum (R7). -/
abbrev psvLen : Nat := 67
/-- `DIGEST_LEN` (R7). -/
abbrev digestLen : Nat := 32
/-- The value at which `LEN` saturates (R7 `LEN_WIDTH`, R12). -/
abbrev lenMax : Nat := 127

/-- FREE VALUE (notes/assumptions/3.md). `ABUF[i]` after a reset edge, which leaves it unspecified (R29, R140): entry `i`
of the `n`-th free value of the run. -/
opaque freeAbuf : Nat → Nat → Byte
/-- FREE VALUE (notes/assumptions/3.md). `KREG` outside a RUN (R21, R29, U2). -/
opaque freeKreg : Nat → Byte
/-- FREE VALUE (notes/assumptions/3.md). `PAY[i]` outside a RUN (R22, R152, U3). -/
opaque freePay : Nat → Nat → Byte
/-- FREE VALUE (notes/assumptions/3.md). `DIG[i]` outside a RUN (R23, R152, U3). -/
opaque freeDig : Nat → Nat → Byte
/-- FREE VALUE (notes/assumptions/3.md). Lane `i` of the hash core's working state (R26, R27, U4). -/
opaque freeHashCore : Nat → Nat → Lane
/-- FREE VALUE (notes/assumptions/3.md). The decoder's accumulator outside a block decode (R27, U4). -/
opaque freeAcc : Nat → BitVec 65

end Config

end Sys2Proof
end

