-- ==== Sys2Proof/Machine/State.lean ====
section
/-! DEFINITION. The machine's state (spec/10_state.md), its value after reset, and the reasons a step can stop. -/

namespace Sys2Proof.Machine

/-- The `STATUS` register, one field per field of R20. `status[7]` always reads 0 (R19) and is not stored; the packed
byte is `Status.pack` of Machine/Flags.lean. -/
structure Status where
  /-- `STATUS.DONE`, 1 bit, `status[0]` (R15). -/
  done : Bool
  /-- `STATUS.VALID`, 1 bit, `status[1]` (R16). -/
  valid : Bool
  /-- `STATUS.ERR`, 3 bits, `status[4:2]` (R17). -/
  err : BitVec 3
  /-- `STATUS.BUSY`, 1 bit, `status[5]` (R18). -/
  busy : Bool
  /-- `STATUS.CMDERR`, 1 bit, `status[6]`, sticky (R19). -/
  cmderr : Bool
deriving DecidableEq, Repr

/-- What the block samples on one rising edge of `clk`: the inputs of R40 and R43. `stall` is the MODEL's own: while a
RUN is in progress, `true` says that `T_RUN` has not yet elapsed on this edge (R150; notes/assumptions/2.md). -/
structure Edge where
  /-- `rst`, synchronous, active high (R43). -/
  rst : Bool
  /-- `cmd_valid` (R40). -/
  cmdValid : Bool
  /-- `cmd[15:0]` (R40). -/
  cmd : CmdWord
  /-- The RUN in progress does not complete on this edge (R150). -/
  stall : Bool
deriving DecidableEq, Repr

/-- The five causes of a reject (R120). -/
inductive Reject where
  /-- INPUT_TYPE: the kind code is not 0, 1 or 2 (R121). -/
  | inputType
  /-- LENGTH: `LEN` is not 98 (R122). -/
  | length
  /-- ALPHABET: a character outside the alphabet (R123). -/
  | alphabet
  /-- PREFIX: the decoded prefix is not the expected one (R124). -/
  | pfxMismatch
  /-- CHECKSUM: the digest does not match the decoded checksum (R125). -/
  | checksum
deriving DecidableEq, Repr

/-- Why the machine could stop with a fault. There is NO such reason: a reject is an ordinary next state (R127), and the
one fault of the command stream, a reserved command word, sets the sticky flag `STATUS.CMDERR` and does not stop the
block (R131). Having no constructor is safe: no behaviour of the spec is cut off (notes/assumptions/11.md). -/
inductive Fault where
deriving DecidableEq, Repr

/-- Why a step could be refused. -/
inductive Refusal where
  /-- An instruction without a meaning in this model. Raised by no arm: all four commands are modelled. Safe. -/
  | notModelled (mnemonic : String)
deriving DecidableEq, Repr

/-- The state of one B58CHK instance. -/
structure State where
  /-- `ABUF`, the address buffer, 98 entries of 8 bits (R10). -/
  abuf : Vector Byte 98
  /-- `LEN`, the position pointer and string length, 7 bits (R12). -/
  len : BitVec 7
  /-- `STATUS` (R15 to R20). -/
  status : Status
  /-- `KREG`, the kind code latched by RUN, 8 bits (R21). -/
  kreg : Byte
  /-- `PAY`, the payload buffer, 71 entries of 8 bits (R22). -/
  pay : Vector Byte 71
  /-- `DIG`, the digest buffer, 32 entries of 8 bits (R23). -/
  dig : Vector Byte 32
  /-- The hash core's working state, 25 lanes of 64 bits (R26, R106); private to the core, so no rule reads it. -/
  hashCore : Vector Lane 25
  /-- The decoder's accumulator, 65 bits (R27). -/
  acc : BitVec 65
  /-- MODEL's own: what the host drives on the coming clock edges, the next edge first (R40; notes/assumptions/2.md). -/
  edges : List Edge
  /-- MODEL's own: how many free values have been taken (notes/assumptions/3.md). -/
  freeIdx : Nat
deriving DecidableEq, Repr

/-- An edge with nothing on it: no reset, no command, and a RUN in progress completes. Read after the last listed edge. -/
def Edge.idle : Edge := { rst := false, cmdValid := false, cmd := 0, stall := false }

/-- The edge on which the host presents the command word `w`. -/
def Edge.present (w : CmdWord) : Edge := { rst := false, cmdValid := true, cmd := w, stall := false }

/-- `STATUS = 0x00` (R29). -/
def Status.zero : Status := { done := false, valid := false, err := 0#3, busy := false, cmderr := false }

def State.setAbuf (s : State) (v : Vector Byte 98) : State := { s with abuf := v }
def State.setLen (s : State) (v : BitVec 7) : State := { s with len := v }
def State.setStatus (s : State) (v : Status) : State := { s with status := v }
def State.setKreg (s : State) (v : Byte) : State := { s with kreg := v }
def State.setPay (s : State) (v : Vector Byte 71) : State := { s with pay := v }
def State.setDig (s : State) (v : Vector Byte 32) : State := { s with dig := v }
def State.setHashCore (s : State) (v : Vector Lane 25) : State := { s with hashCore := v }
def State.setAcc (s : State) (v : BitVec 65) : State := { s with acc := v }
def State.setEdges (s : State) (v : List Edge) : State := { s with edges := v }
def State.setFreeIdx (s : State) (v : Nat) : State := { s with freeIdx := v }

/-- The machine right after reset (R29, R140): `LEN = 0`, `STATUS = 0x00`. The spec gives `ABUF`, `KREG`, `PAY`, `DIG`, the
hash core and the accumulator no reset value: zero here, DESIGN CHOICE (notes/assumptions/1.md, unsafe). The host has
driven nothing yet (notes/assumptions/2.md) and no free value has been taken (notes/assumptions/3.md). -/
def State.reset : State where
  abuf := Vector.replicate 98 0
  len := 0#7
  status := Status.zero
  kreg := 0
  pay := Vector.replicate 71 0
  dig := Vector.replicate 32 0
  hashCore := Vector.replicate 25 0
  acc := 0
  edges := []
  freeIdx := 0

end Sys2Proof.Machine
end

