-- ==== Sys2Proof/Machine/Flags.lean ====
section
/-! DEFINITION. The `STATUS` register: its packed byte, its codes and every way a rule writes its fields
(spec/10_state.md R15 to R20; spec/30_encoding.md R60). -/

namespace Sys2Proof.Machine

/-- The `ERR` code of a reject (R60, R120). Code 0 is NONE; 6 and 7 are never produced. -/
def Reject.code : Reject → BitVec 3
  | .inputType => 1#3
  | .length => 2#3
  | .alphabet => 3#3
  | .pfxMismatch => 4#3
  | .checksum => 5#3

/-- One bit from a flag. -/
def flagBit (b : Bool) : BitVec 1 := BitVec.ofBool b

/-- The packed byte `status[7:0]` of R20; bit 7 reads 0 (R19). -/
def Status.pack (st : Status) : Byte :=
  (0 : BitVec 1) ++ flagBit st.cmderr ++ flagBit st.busy ++ st.err ++ flagBit st.valid ++ flagBit st.done

/-- `DONE`, `VALID` and `ERR` cleared together; done by CLR, PUSH and RUN acceptance (R71, R72, R74). -/
def Status.clearResult (st : Status) : Status := { st with done := false, valid := false, err := 0#3 }

/-- RUN acceptance: the result is cleared and `BUSY` set (R74 step 1). -/
def Status.startRun (st : Status) : Status := { st.clearResult with busy := true }

/-- RUN completion: the four writes of R74 step 2, together. -/
def Status.finishRun (st : Status) (valid : Bool) (err : BitVec 3) : Status :=
  { st with valid := valid, err := err, done := true, busy := false }

/-- A reserved command word was accepted (R62, R131). -/
def Status.setCmderr (st : Status) : Status := { st with cmderr := true }

end Sys2Proof.Machine
end

