-- ==== Sys2Proof/Machine/Bits.lean ====
section
/-! DEFINITION. Sequences of bytes, byte order and bit fields (spec/00_scope.md R8; spec/20_memory.md R30, R33). -/

namespace Sys2Proof.Machine

/-- The vector whose entry `i` is `f i`. -/
def tabulate {α : Type} (n : Nat) (f : Nat → α) : Vector α n := ⟨⟨(List.range n).map f⟩, by simp⟩

/-- `A[lo .. lo+len-1]`: `len` entries from index `lo`, in increasing index order (R8). -/
def slice {α : Type} (xs : List α) (lo len : Nat) : List α := (xs.drop lo).take len

/-- Write `bs` to the entries from `lo` on; an index outside the buffer writes nothing (no rule uses one, R26). -/
def writeFrom {α : Type} {n : Nat} (v : Vector α n) (lo : Nat) : List α → Vector α n
  | [] => v
  | b :: bs => writeFrom (v.setIfInBounds lo b) (lo + 1) bs

/-- `be_n(v)` of R8: byte 0 is `v[8n-1:8n-8]`, byte `n-1` is `v[7:0]`. -/
def beBytes (n v : Nat) : List Byte := (List.range n).map fun i => BitVec.ofNat 8 (v >>> (8 * (n - 1 - i)))

/-- `EQ(X, Y)` of R100: equality of two byte sequences, byte for byte. -/
def bytesEq (x y : List Byte) : Bool := decide (x = y)

/-- `ROL(v, n)` of R106, for `n` in 0..63. -/
def rol (v : Lane) (n : Nat) : Lane := if n = 0 then v else (v <<< n) ||| (v >>> (64 - n))

/-- The lane of 8 bytes, least significant byte first (R107). -/
def laneOfBytes : List Byte → Lane
  | [] => 0
  | b :: bs => b.zeroExtend 64 ||| (laneOfBytes bs <<< 8)

/-- Byte `i` of a lane, `i` in 0..7, least significant byte first (R107). -/
def laneByte (v : Lane) (i : Nat) : Byte := v.extractLsb' (8 * i) 8

end Sys2Proof.Machine
end

