-- ==== Sys2Proof/Machine/Operands.lean ====
section
/-! DEFINITION. What the operands denote: kind codes and character symbols (spec/30_encoding.md R52, R53, R56 to R59), and
the fixed positions the micro-operations work on (R54; spec/20_memory.md R38, R39). -/

namespace Sys2Proof.Machine

/-- The kind a code stands for (R56); codes 3..255 are not recognised. -/
def kindOf (k : Byte) : Option NetworkKind :=
  if k = 0#8 then some .mainnet
  else if k = 1#8 then some .testnet
  else if k = 2#8 then some .stagenet
  else none

/-- The code of a kind (R56). -/
def kindCode : NetworkKind → Byte
  | .mainnet => 0
  | .testnet => 1
  | .stagenet => 2

/-- The 58-character string of R58, as symbols. The order is the spec's general knowledge
(notes/assumptions/5.md). -/
def alphabet : List Byte :=
  ("123456789ABCDEFGHJKLMNPQRSTUVWXYZabcdefghijkmnopqrstuvwxyz".toList).map fun c => BitVec.ofNat 8 c.toNat

/-- `DIGIT(c)`: the base-58 digit of a symbol, or `none` for `NONE`; the six ranges of R59. -/
def digit (c : Byte) : Option Nat :=
  let n := c.toNat
  if 0x31 ≤ n ∧ n ≤ 0x39 then some (n - 0x31)
  else if 0x41 ≤ n ∧ n ≤ 0x48 then some (n - 0x38)
  else if 0x4a ≤ n ∧ n ≤ 0x4e then some (n - 0x39)
  else if 0x50 ≤ n ∧ n ≤ 0x5a then some (n - 0x3a)
  else if 0x61 ≤ n ∧ n ≤ 0x6b then some (n - 0x40)
  else if 0x6d ≤ n ∧ n ≤ 0x7a then some (n - 0x41)
  else none

/-- The characters of block `b`: 0..7 are the full blocks, 8 is the tail block (R35, R38, R80). -/
def blockChars (addr : List Byte) (b : Nat) : List Byte :=
  if b < Config.fullBlocks then slice addr (Config.fullChars * b) Config.fullChars
  else slice addr (Config.fullChars * Config.fullBlocks) Config.tailChars

/-- How many bytes block `b` decodes to (R38). -/
def blockBytes (b : Nat) : Nat := if b < Config.fullBlocks then Config.fullBytes else Config.tailBytes

/-- The `PAY` offset of block `b`'s first byte (R38). -/
def blockOffset (b : Nat) : Nat := Config.fullBytes * b

/-- `prefix = PAY[0..2]` (R39, R85). -/
def payPrefix (pay : List Byte) : List Byte := slice pay 0 Config.prefixLen

/-- `prefixSpendView = PAY[0..66]` (R39, R85). -/
def paySpendView (pay : List Byte) : List Byte := slice pay 0 Config.psvLen

/-- `checksum = PAY[67..70]` (R39, R85). -/
def payChecksum (pay : List Byte) : List Byte := slice pay Config.psvLen Config.checksumLen

/-- The spend key, `PAY[3..34]`; informational, read by no rule (R39, decision D23). -/
def paySpendKey (pay : List Byte) : List Byte := slice pay 3 32

/-- The view key, `PAY[35..66]`; informational, read by no rule (R39, decision D23). -/
def payViewKey (pay : List Byte) : List Byte := slice pay 35 32

end Sys2Proof.Machine
end

