-- ==== Sys2Proof/Machine/Ops.lean ====
section
/-! DEFINITION. The named operations over the registers, shared by the meanings: the store of PUSH, the length counter,
the result flags, the entry of a reject, and reset. The block has no memory and no bus (spec/10_state.md R26), so `ABUF`,
`PAY` and `DIG` are register files of fixed size and there is no memory operation (notes/assumptions/10.md). -/

namespace Sys2Proof.Machine

/-- `LEN <- min(LEN + 1, 127)`: the saturating increment (R12). -/
def lenSucc (n : BitVec 7) : BitVec 7 := BitVec.ofNat 7 (min (n.toNat + 1) Config.lenMax)

/-- The block's only store: `if LEN < 98 then ABUF[LEN] <- c` (R72, R73). A symbol past the last entry is dropped
(R13). -/
def State.storeChar (s : State) (c : Byte) : State :=
  if s.len.toNat < Config.addrLen then s.setAbuf (s.abuf.setIfInBounds s.len.toNat c) else s

/-- Post-increment of the pointer (R12, R72). -/
def State.advanceLen (s : State) : State := s.setLen (lenSucc s.len)

/-- `LEN <- 0` (R71, R140). -/
def State.zeroLen (s : State) : State := s.setLen 0#7

/-- `DONE`, `VALID`, `ERR` cleared (R71, R72). -/
def State.clearResult (s : State) : State := s.setStatus s.status.clearResult

/-- RUN acceptance, step 1 of R74: the kind is latched, the result cleared, `BUSY` set. -/
def State.startRun (s : State) (k : Byte) : State := (s.setKreg k).setStatus s.status.startRun

/-- TAKING THE EXCEPTION: `raise Reject(code)` of R126, the block's only exception primitive (R8). It writes `VALID`, `ERR`,
`DONE` and `BUSY`, saves nothing and transfers control nowhere. There is no return from it, since nothing was entered
(R130): the next command is accepted as usual (R127). -/
def State.raiseReject (s : State) (r : Reject) : State := s.setStatus (s.status.finishRun false r.code)

/-- ACCEPT (R99). -/
def State.acceptResult (s : State) : State := s.setStatus (s.status.finishRun true 0#3)

/-- The transient registers outside a RUN: `KREG`, `PAY`, `DIG`, the hash core and the accumulator hold unspecified
values (R22, R23, R27, R29, R152, U2 to U4), each a free value (notes/assumptions/3.md). -/
def State.freeTransients (s : State) : State :=
  { s with
    kreg := Config.freeKreg s.freeIdx
    pay := tabulate 71 (Config.freePay s.freeIdx)
    dig := tabulate 32 (Config.freeDig s.freeIdx)
    hashCore := tabulate 25 (Config.freeHashCore s.freeIdx)
    acc := Config.freeAcc s.freeIdx
    freeIdx := s.freeIdx + 1 }

/-- An edge with `rst = 1` (R140, R141): `LEN` and `STATUS` are cleared, a RUN in progress is abandoned, and everything
else holds unspecified values, each a free value (notes/assumptions/3.md). -/
def State.resetBlock (s : State) : State :=
  (((s.setAbuf (tabulate 98 (Config.freeAbuf s.freeIdx))).setLen 0#7).setStatus Status.zero).freeTransients

/-- Accepting a reserved command word: the sole effect is the sticky `CMDERR` (R62, R131). -/
def State.acceptReserved (s : State) : State := s.setStatus s.status.setCmderr

end Sys2Proof.Machine
end

