-- ==== Sys2Proof/Machine/Commands.lean ====
section
/-! DEFINITION. The meanings of the four commands: what accepting each does (spec/40_commands.md R70 to R74). A command is
accepted only while `BUSY = 0` (spec/20_memory.md R41), which Machine/Port.lean decides before exec is called. -/

namespace Sys2Proof.Machine

/-- `NOP` (R70): nothing changes. -/
def execNop (s : State) : Host.Outcome State Fault Refusal := .next s

/-- `CLR` (R71): `LEN` and the result are cleared; `ABUF` is not (notes/assumptions/4.md). -/
def execClr (s : State) : Host.Outcome State Fault Refusal := .next s.zeroLen.clearResult

/-- `PUSH c` (R72): store at the old `LEN`, advance it, clear the result. -/
def execPush (c : Byte) (s : State) : Host.Outcome State Fault Refusal :=
  .next (s.storeChar c).advanceLen.clearResult

/-- `RUN k`, step 1 of R74: acceptance. Its step 2, `completeRun` of Machine/Verifier.lean, happens on a later edge
(notes/assumptions/12.md). -/
def execRun (k : Byte) (s : State) : Host.Outcome State Fault Refusal := .next (s.startRun k)

end Sys2Proof.Machine
end

