-- ==== Sys2Proof/Syntax.lean ====
section
/-! DEFINITION. The command set: one constructor per row of spec/opcode_table.json (spec/30_encoding.md R51). -/

namespace Sys2Proof

/-- The four commands of "B58CHK command set version 1" (R2, R51). The micro-operations of RUN are not
commands and have no encoding (R54, R65). -/
inductive Instr where
  /-- `NOP`: no operation (R70). -/
  | nop
  /-- `CLR`: begin a new address (R71). -/
  | clr
  /-- `PUSH c`: append the 8-bit symbol `c`, any of 0..255 (R52, R72). -/
  | push (c : Byte)
  /-- `RUN k`: validate the buffered address against the kind code `k`, any of 0..255 (R53, R74). -/
  | run (k : Byte)
deriving DecidableEq, Repr

end Sys2Proof
end

