-- ==== Sys2Proof/WellFormed.lean ====
section
/-! DEFINITION. Which instructions and which command words are well formed. The operand types already hold every
legal operand and no other (spec/30_encoding.md R51, R64), so the checks that can refuse something are those on
command words: the rows of the opcode map, as match and mask. -/

namespace Sys2Proof

/-- Every instruction term is legal: PUSH takes any symbol, and RUN any kind code, recognised or not (R64). -/
def Instr.wf : Instr → Bool
  | .nop => true
  | .clr => true
  | .push _ => true
  | .run _ => true

/-- One row of the opcode map: `w` is that command exactly when `(w and mask) = match` (R51). -/
structure OpRow where
  mask : CmdWord
  pattern : CmdWord
deriving DecidableEq, Repr

/-- The row's own test (R51). -/
def OpRow.covers (r : OpRow) (w : CmdWord) : Bool := decide (w &&& r.mask = r.pattern)

/-- The `NOP` row of R51. -/
def OpRow.nop : OpRow := ⟨0xffff, 0x0000⟩
/-- The `CLR` row of R51. -/
def OpRow.clr : OpRow := ⟨0xffff, 0x1000⟩
/-- The `PUSH` row of R51. -/
def OpRow.push : OpRow := ⟨0xff00, 0x2000⟩
/-- The `RUN` row of R51. -/
def OpRow.run : OpRow := ⟨0xff00, 0x3000⟩

/-- The opcode map of R51. -/
def opRows : List OpRow := [OpRow.nop, OpRow.clr, OpRow.push, OpRow.run]

/-- A command word of R51; every other word is reserved (R62). -/
def CmdWord.wf (w : CmdWord) : Bool := opRows.any fun r => r.covers w

end Sys2Proof
end

