-- ==== Sys2Proof/Decode.lean ====
section
/-! DEFINITION. The decoder and the encoder of command words (spec/30_encoding.md R50 to R53, R62). A command is one
16-bit word on parallel wires, so there is no byte order and no second word (R34, R50). -/

namespace Sys2Proof

/-- `OP = cmd[15:12]` (R50). -/
def CmdWord.op (w : CmdWord) : BitVec 4 := w.extractLsb' 12 4
/-- `RSV = cmd[11:8]` (R50). -/
def CmdWord.rsv (w : CmdWord) : BitVec 4 := w.extractLsb' 8 4
/-- `ARG = cmd[7:0]`, the operand of PUSH and RUN, used as is (R50, R52, R53). -/
def CmdWord.arg (w : CmdWord) : Byte := w.extractLsb' 0 8

/-- Why a word is reserved: the three cases of R62. All reserved words behave alike (R63); the name is only for a
reader. -/
inductive ReservedWord where
  /-- `OP` is 0x4..0xf. -/
  | opcode
  /-- `RSV` is not 0. -/
  | reservedField
  /-- `OP` is 0x0 or 0x1 and `ARG` is not 0. -/
  | argument
deriving DecidableEq, Repr

/-- Decode one command word: a command of R51, or the reason the word is reserved (R62). -/
def decode (w : CmdWord) : Except ReservedWord Instr :=
  if 4 ≤ w.op.toNat then .error .opcode
  else if w.rsv ≠ 0#4 then .error .reservedField
  else if w.op = 0x0#4 then (if w.arg = 0#8 then .ok .nop else .error .argument)
  else if w.op = 0x1#4 then (if w.arg = 0#8 then .ok .clr else .error .argument)
  else if w.op = 0x2#4 then .ok (.push w.arg)
  else .ok (.run w.arg)

/-- Put the three fields of format `C` together (R50). -/
def packWord (op : BitVec 4) (rsv : BitVec 4) (arg : Byte) : CmdWord := op ++ rsv ++ arg

/-- The command word of an instruction (R51). -/
def encode : Instr → CmdWord
  | .nop => packWord 0x0#4 0#4 0#8
  | .clr => packWord 0x1#4 0#4 0#8
  | .push c => packWord 0x2#4 0#4 c
  | .run k => packWord 0x3#4 0#4 k

/-- The word whose low `nbits` bits are those of `w`, every bit above them 0. -/
def tableWord (nbits w : Nat) : CmdWord := BitVec.ofNat 16 (w % 2 ^ nbits)

/-- The instruction the decoder reads from a word numbered as spec/opcode_table.json numbers it. -/
def decodeTableWord (nbits w : Nat) : Option Instr :=
  if nbits ≤ 16 then (decode (tableWord nbits w)).toOption else none

end Sys2Proof
end

