-- ==== Sys2Proof/Machine/Port.lean ====
section
/-! DEFINITION. The ports (spec/20_memory.md R40 to R43): what the block drives, and what happens on one clock edge. -/

namespace Sys2Proof.Machine

/-- `cmd_ready = not STATUS.BUSY` (R41). -/
def State.cmdReady (s : State) : Bool := !s.status.busy

/-- `status[7:0]`, driven at all times (R42). -/
def State.statusPort (s : State) : Byte := s.status.pack

/-- What the block samples on the next edge; after the last listed one the host drives nothing
(notes/assumptions/2.md). -/
def State.nextEdge (s : State) : Edge := s.edges.headD Edge.idle

/-- The edge has passed. -/
def State.popEdge (s : State) : State := s.setEdges (s.edges.tail)

/-- What one clock edge does. -/
inductive EdgeEvent where
  /-- `rst = 1`: reset, whatever else is driven (R140). -/
  | reset
  /-- A RUN is in progress and goes on (R150). -/
  | stalled
  /-- A RUN in progress completes (R74 step 2). -/
  | complete
  /-- No RUN in progress and nothing accepted (R40). -/
  | idle
  /-- A reserved command word is accepted (R62). -/
  | reserved (why : ReservedWord)
  /-- A command is accepted (R40). -/
  | command (i : Instr)
deriving DecidableEq, Repr

/-- Accepting a command word: the command it encodes, or reserved (R40, R51, R62). -/
def acceptWord (w : CmdWord) : EdgeEvent :=
  match decode w with
  | .ok i => .command i
  | .error why => .reserved why

/-- The event of an edge with samples `e` while `BUSY = busy`: reset first (R140); while a RUN is in progress no command
is accepted (R41) and the RUN completes or goes on; otherwise a word is accepted exactly when `cmd_valid = 1` (R40). -/
def edgeEvent (busy : Bool) (e : Edge) : EdgeEvent :=
  if e.rst then .reset
  else if busy then (if e.stall then .stalled else .complete)
  else if e.cmdValid then acceptWord e.cmd
  else .idle

/-- The event of the next edge. -/
def State.event (s : State) : EdgeEvent := edgeEvent s.status.busy s.nextEdge

/-- Put a command word on the next edge and leave the block ready to accept it. -/
def State.presentNext (s : State) (w : CmdWord) : State :=
  { s with edges := Edge.present w :: s.edges.tail, status := { s.status with busy := false } }

end Sys2Proof.Machine
end

