-- ==== Sys2Proof/Machine/BlockDecoder.lean ====
section
/-! DEFINITION. The block decoder (spec/41_block_decoder.md R80 to R89): as a function from characters to bytes, and as
micro-operations that write the accumulator and `PAY`. -/

namespace Sys2Proof.Machine

/-- PARTITION (R80): the nine blocks, by position only. -/
def partitionBlocks (addr : List Byte) : List (List Byte) :=
  (List.range (Config.fullBlocks + 1)).map (blockChars addr)

/-- CHARMAP on every character of a block (R81): the digits, or `none` if a character has no digit (R86). -/
def digitsOf : List Byte → Option (List Nat)
  | [] => some []
  | c :: cs =>
    match digit c, digitsOf cs with
    | some d, some ds => some (d :: ds)
    | _, _ => none

/-- The exact value of a digit string, most significant digit first, by Horner's rule (R82, R88 (b)). -/
def hornerValue (ds : List Nat) : Nat := ds.foldl (fun v d => v * 58 + d) 0

/-- The same value as the sum of R82: `d[0]*58^(n-1) + ... + d[n-1]`. -/
def positionalValue : List Nat → Nat
  | [] => 0
  | d :: ds => d * 58 ^ ds.length + positionalValue ds

/-- The value `V` of a block, or `none` on a character outside the alphabet (R82, R83, R86). -/
def blockValue (chars : List Byte) : Option Nat := (digitsOf chars).map hornerValue

/-- Does a block of value `v` decode at all? It always does under `OVERFLOW = truncate`; under `reject` only if the value
fits its `n` bytes (R87). -/
def valueFits (p : Params) (n v : Nat) : Bool :=
  match p.overflow with
  | .truncate => true
  | .reject => decide (v < 2 ^ (8 * n))

/-- The padding strip: the last `n` bytes of the value, leading zeros included, big-endian (R82, R83, R89). -/
def stripBytes (n v : Nat) : List Byte := beBytes n (v % 2 ^ (8 * n))

/-- The byte group of one block, or `none` on a decode failure (R82, R83, R86, R87). -/
def decodeBlock (p : Params) (addr : List Byte) (b : Nat) : Option (List Byte) :=
  match blockValue (blockChars addr b) with
  | none => none
  | some v => if valueFits p (blockBytes b) v then some (stripBytes (blockBytes b) v) else none

/-- CONCAT (R84) of the byte groups of the blocks listed, or `none` if one of them fails. -/
def decodeBlocks (p : Params) (addr : List Byte) : List Nat → Option (List Byte)
  | [] => some []
  | b :: bs =>
    match decodeBlock p addr b, decodeBlocks p addr bs with
    | some g, some gs => some (g ++ gs)
    | _, _ => none

/-- The payload `PAY[0..70]` of a 98-character address, or a decode failure (R84, R86). -/
def decodePayload (p : Params) (addr : List Byte) : Option (List Byte) :=
  decodeBlocks p addr (List.range (Config.fullBlocks + 1))

/-- The source's DecodedAddress: three views of the payload (R9, R22, R85). -/
structure DecodedAddress where
  pfx : List Byte
  checksum : List Byte
  spendView : List Byte
deriving DecidableEq, Repr

/-- SPLIT (R85). -/
def splitPayload (pay : List Byte) : DecodedAddress :=
  { pfx := payPrefix pay, checksum := payChecksum pay, spendView := paySpendView pay }

/-- One step of the RUN sequence: it goes on to the next with a new state, or raises a reject (R8, R14, R90). -/
abbrev MicroOp := State → Except Reject State

/-- Decode the characters of a block into the accumulator and write its `n` bytes to `PAY` from offset `off` (R82, R83).
Reject(ALPHABET) on the first `NONE` (R86), and on an overflow under `OVERFLOW = reject` (R87). -/
def decodeTo (p : Params) (first len off n : Nat) : MicroOp := fun s =>
  match blockValue (slice s.abuf.toList first len) with
  | none => .error .alphabet
  | some v =>
    if valueFits p n v then
      let s := s.setAcc (BitVec.ofNat 65 v)
      .ok (s.setPay (writeFrom s.pay off (stripBytes n s.acc.toNat)))
    else .error .alphabet

/-- BLKDEC8 (R82): `ABUF[11*b .. 11*b+10]` to `PAY[8*b .. 8*b+7]`. -/
def blkDec8 (p : Params) (b : Nat) : MicroOp :=
  decodeTo p (Config.fullChars * b) Config.fullChars (Config.fullBytes * b) Config.fullBytes

/-- BLKDEC7 (R83): `ABUF[88..97]` to `PAY[64..70]`. -/
def blkDec7 (p : Params) : MicroOp :=
  decodeTo p (Config.fullChars * Config.fullBlocks) Config.tailChars (Config.fullBytes * Config.fullBlocks) Config.tailBytes

/-- The decode of block `b` of 0..8 (R80): BLKDEC8, or BLKDEC7 for the tail block. -/
def blkDec (p : Params) (b : Nat) : MicroOp := if b < Config.fullBlocks then blkDec8 p b else blkDec7 p

/-- Perform micro-operations in order and stop at the first reject (R90). -/
def runMicros : List MicroOp → MicroOp
  | [], s => .ok s
  | m :: ms, s =>
    match m s with
    | .ok s' => runMicros ms s'
    | .error r => .error r

/-- The block decodes listed, in that order (R84 lets an implementation choose the order). -/
def blkDecs (p : Params) (bs : List Nat) : MicroOp := runMicros (bs.map (blkDec p))

/-- The byte buffer of a general-purpose base-58 decoder: one zero byte for each leading `'1'`, then the `n` minimal
big-endian bytes of the value (R89). -/
def minimalBytes (v : Nat) : List Byte := beBytes ((Nat.log2 v + 8) / 8) v

/-- The buffer of R89 for a block: `'1'` is 0x31. -/
def bufferView (chars : List Byte) : Option (List Byte) :=
  (blockValue chars).map fun v =>
    List.replicate (chars.takeWhile (· == 0x31)).length 0 ++ (if v = 0 then [] else minimalBytes v)

/-- The last `n` entries of a buffer (R82, R83: "last 8 bytes"). -/
def lastBytes (n : Nat) (buf : List Byte) : List Byte := buf.drop (buf.length - n)

end Sys2Proof.Machine
end

