-- ==== Sys2Proof/Machine/Verifier.lean ====
section
/-! DEFINITION. The verifier (spec/42_verifier.md R90 to R100): the micro-operations of RUN, the completion of a RUN
(spec/40_commands.md R74 step 2), the result function of R75, and the source's `validate` (R76). -/

namespace Sys2Proof.Machine

/-- TYPECHK (R91): always passes, since the port carries only 8-bit symbols. -/
def typeChk : MicroOp := fun s => .ok s

/-- KINDCHK (R92). -/
def kindChk : MicroOp := fun s => if 2 < s.kreg.toNat then .error .inputType else .ok s

/-- LENCHK (R93). -/
def lenChk : MicroOp := fun s => if s.len.toNat ≠ Config.addrLen then .error .length else .ok s

/-- DECODE (R94): the nine block decodes; CONCAT and SPLIT need no work of their own (R84, R85). -/
def decodeAddr (p : Params) : MicroOp := blkDecs p (List.range (Config.fullBlocks + 1))

/-- PFXSEL (R95): the expected prefix of the kind in `KREG`; there is none for `KREG > 2`, where it is never evaluated. -/
def pfxSel (p : Params) (s : State) : Option (List Byte) := (kindOf s.kreg).map fun k => (p.prefixTable k).toList

/-- PFXSEL then PFXMATCH (R95, R96). -/
def pfxMatch (p : Params) : MicroOp := fun s =>
  match pfxSel p s with
  | some expected => if bytesEq (payPrefix s.pay.toList) expected then .ok s else .error .pfxMismatch
  | none => .error .pfxMismatch

/-- HASHCALL (R97): `DIG[0..31] <- HASH(PAY[0..66])`. -/
def hashCall (p : Params) : MicroOp := fun s => .ok (s.setDig (p.hash (paySpendView s.pay.toList)))

/-- CSUMCMP (R98): `DIG[0..3]` against `PAY[67..70]`. -/
def csumCmp : MicroOp := fun s =>
  if bytesEq (slice s.dig.toList 0 Config.checksumLen) (payChecksum s.pay.toList) then .ok s else .error .checksum

/-- The RUN sequence of R90, up to ACCEPT. -/
def runSequence (p : Params) : List MicroOp :=
  [typeChk, kindChk, lenChk, decodeAddr p, pfxMatch p, hashCall p, csumCmp]

/-- The checks of a RUN, ending in ACCEPT (R99) or in the reject of the first failing one (R90, R126). -/
def verifyBuffer (p : Params) (s : State) : State :=
  match runMicros (runSequence p) s with
  | .ok s' => s'.acceptResult
  | .error r => s.raiseReject r

/-- RUN completion (R74 step 2). The RUN is over, so the transients are unspecified again (R27, R152). -/
def completeRun (p : Params) (s : State) : State := (verifyBuffer p s).freeTransients

/-- `RESULT(ABUF, LEN, k)`: the pair `(VALID, ERR)`, in one place as R75 writes it. -/
def result (p : Params) (abuf : Vector Byte 98) (len : BitVec 7) (k : Byte) : Bool × BitVec 3 :=
  match kindOf k with
  | none => (false, Reject.inputType.code)
  | some kind =>
    if len.toNat ≠ Config.addrLen then (false, Reject.length.code)
    else
      match decodePayload p abuf.toList with
      | none => (false, Reject.alphabet.code)
      | some pay =>
        if ¬ bytesEq (payPrefix pay) (p.prefixTable kind).toList then (false, Reject.pfxMismatch.code)
        else if ¬ bytesEq (slice (p.hash (paySpendView pay)).toList 0 Config.checksumLen) (payChecksum pay) then
          (false, Reject.checksum.code)
        else (true, 0#3)

/-- The source's `validate(address, networkKind)` on any string of symbols, with the kind as its code: the checks of
BU §4.2 as R104 lists them (R76). -/
def validate (p : Params) (str : List Byte) (k : Byte) : Bool :=
  match kindOf k with
  | none => false
  | some kind =>
    str.length == Config.addrLen &&
      match decodePayload p str with
      | none => false
      | some pay =>
        let a := splitPayload pay
        bytesEq a.pfx (p.prefixTable kind).toList &&
          bytesEq (slice (p.hash a.spendView).toList 0 Config.checksumLen) a.checksum

end Sys2Proof.Machine
end

