-- ==== Sys2Proof/Machine/ClockEdge.lean ====
section
/-! DEFINITION. One rising edge of `clk` (spec/20_memory.md R40 to R44), for every value of the parameters of
spec/00_scope.md R7. -/

namespace Sys2Proof.Machine

/-- Consume the next edge and do what it does, with the parameters `p`: an argument that no step changes (R7, R143 (d);
decisions D24, D25). Every effect is complete before the next edge (R37, R44). -/
def stepWith (p : Params) (s : State) : Host.Outcome State Fault Refusal :=
  match s.event with
  | .reset => .next s.popEdge.resetBlock
  | .stalled => .next s.popEdge
  | .complete => .next (completeRun p s.popEdge)
  | .idle => .next s.popEdge
  | .reserved _ => .next s.popEdge.acceptReserved
  | .command i => exec i s.popEdge

/-- The machine with a prefix table, a hash and an overflow rule of the caller's choice (R7, U7, U11, U12). `Sys2Proof.core` is
this machine at the defaults. -/
def coreWith (p : Params) : Host.Core where
  State := State
  Fault := Fault
  Refusal := Refusal
  step := stepWith p
  reset := State.reset

end Sys2Proof.Machine
end

