-- ==== Sys2Proof/Machine/Keccak.lean ====
section
/-! DEFINITION. Keccak-256 with the original padding (spec/43_keccak256.md R105 to R114), the default of the parameter
`HASH`. The spec marks this whole file as general knowledge (notes/assumptions/6.md). -/

namespace Sys2Proof.Machine

/-- The 25 lanes of the permutation; lane number `x + 5*y` is `A[x][y]` (R106). -/
abbrev Lanes := Vector Lane 25

/-- The lanes with `A[x][y] = f x y` (R106). -/
def lanesOf (f : Nat → Nat → Lane) : Lanes := tabulate 25 fun i => f (i % 5) (i / 5)

/-- `A[x][y]`, both indices modulo 5 (R106). -/
def laneAt (a : Lanes) (x y : Nat) : Lane := a.toList.getD (x % 5 + 5 * (y % 5)) 0

/-- Entry `x` of a row of five lanes, the index modulo 5 (R106). -/
def rowAt (c : Vector Lane 5) (x : Nat) : Lane := c.toList.getD (x % 5) 0

/-- theta's column parities `C[x]` (R111). -/
def thetaC (a : Lanes) : Vector Lane 5 :=
  tabulate 5 fun x => laneAt a x 0 ^^^ laneAt a x 1 ^^^ laneAt a x 2 ^^^ laneAt a x 3 ^^^ laneAt a x 4

/-- theta's `D[x]` (R111). -/
def thetaD (c : Vector Lane 5) : Vector Lane 5 := tabulate 5 fun x => rowAt c (x + 4) ^^^ rol (rowAt c (x + 1)) 1

/-- theta's last line, from the array `D` (R111). -/
def thetaMix (a : Lanes) (d : Vector Lane 5) : Lanes := lanesOf fun x y => laneAt a x y ^^^ rowAt d x

/-- theta (R111). -/
def theta (a : Lanes) : Lanes := thetaMix a (thetaD (thetaC a))

/-- The rotation offsets of R112, in lane order (row `y` = 0 first, `x` = 0 to 4 in each). -/
def rhoTable : List Nat :=
  [0, 1, 62, 28, 27,
   36, 44, 6, 55, 20,
   3, 10, 43, 25, 39,
   41, 45, 15, 21, 8,
   18, 2, 61, 56, 14]

/-- `RHO[x][y]` (R112). -/
def rho (x y : Nat) : Nat := rhoTable.getD (x % 5 + 5 * (y % 5)) 0

/-- rho and pi: `B[y][(2x+3y) mod 5] = ROL(A[x][y], RHO[x][y])` (R111). Written by target: `B[u][v]` comes from `y = u` and
the one `x` with `2x + 3u = v` modulo 5, which is `x = 3v + u`. -/
def rhoPi (a : Lanes) : Lanes := lanesOf fun u v => rol (laneAt a (3 * v + u) u) (rho (3 * v + u) u)

/-- chi (R111). -/
def chi (b : Lanes) : Lanes :=
  lanesOf fun x y => laneAt b x y ^^^ (~~~ (laneAt b (x + 1) y) &&& laneAt b (x + 2) y)

/-- iota with round constant `c` (R111). -/
def iota (c : Lane) (a : Lanes) : Lanes := a.set 0 (laneAt a 0 0 ^^^ c)

/-- The round constants `RC[0]` to `RC[23]` (R113). -/
def roundConstants : List Lane :=
  [0x0000000000000001, 0x0000000000008082, 0x800000000000808a, 0x8000000080008000,
   0x000000000000808b, 0x0000000080000001, 0x8000000080008081, 0x8000000000008009,
   0x000000000000008a, 0x0000000000000088, 0x0000000080008009, 0x000000008000000a,
   0x000000008000808b, 0x800000000000008b, 0x8000000000008089, 0x8000000000008003,
   0x8000000000008002, 0x8000000000000080, 0x000000000000800a, 0x800000008000000a,
   0x8000000080008081, 0x8000000000008080, 0x0000000080000001, 0x8000000080008008]

/-- One round with round constant `c`: the five steps in order (R111). -/
def keccakRound (a : Lanes) (c : Lane) : Lanes := iota c (chi (rhoPi (theta a)))

/-- The permutation `KeccakF`: 24 rounds in order (R111). -/
def keccakF (a : Lanes) : Lanes := roundConstants.foldl keccakRound a

/-- The rate in bytes (R108). -/
def rateBytes : Nat := 136

/-- The bytes appended to a message of `n` bytes: the original Keccak padding (R109). -/
def padBytes (n : Nat) : List Byte :=
  let q := rateBytes - n % rateBytes
  if q = 1 then [0x81] else 0x01 :: (List.replicate (q - 2) 0x00 ++ [0x80])

/-- The padded message (R109). -/
def padMessage (m : List Byte) : List Byte := m ++ padBytes m.length

/-- XOR one 136-byte block into lanes 0..16 (R110). -/
def absorbBlock (a : Lanes) (p : List Byte) : Lanes :=
  tabulate 25 fun i =>
    let v := a.toList.getD i 0
    if i < 17 then v ^^^ laneOfBytes (slice p (8 * i) 8) else v

/-- All lanes 0 (R110). -/
def zeroLanes : Lanes := lanesOf fun _ _ => 0

/-- Absorb the 136-byte blocks of a padded message in order (R110). -/
def absorb (padded : List Byte) : Lanes :=
  (List.range (padded.length / rateBytes)).foldl
    (fun a j => keccakF (absorbBlock a (slice padded (rateBytes * j) rateBytes))) zeroLanes

/-- The 32 bytes of lanes 0, 1, 2, 3, each least significant byte first (R110). -/
def squeeze (a : Lanes) : Vector Byte 32 := tabulate 32 fun i => laneByte (a.toList.getD (i / 8) 0) (i % 8)

/-- Keccak-256 of a byte string (R105, R110). -/
def keccak256 (m : List Byte) : Vector Byte 32 := squeeze (absorb (padMessage m))

/-- One step of the 8-bit register that generates the round constants (R113). -/
def lfsrNext (r : Nat) : Nat := if 128 ≤ r then ((2 * r) ^^^ 0x171) % 256 else 2 * r

/-- The constant of one round from the register's value: bits `2^j - 1` for `j` in 0..6 (R113). -/
def lfsrConstant : Nat → Nat → Lane × Nat
  | 0, r => (0, r)
  | n + 1, r =>
    let rest := lfsrConstant n (lfsrNext r)
    (if r % 2 = 1 then rest.1 ||| ((1 : Lane) <<< (2 ^ (7 - (n + 1)) - 1)) else rest.1, rest.2)

/-- The constants of `n` rounds from the register's value (R113). -/
def lfsrConstants : Nat → Nat → List Lane
  | 0, _ => []
  | n + 1, r => (lfsrConstant 7 r).1 :: lfsrConstants n (lfsrConstant 7 r).2

/-- The offsets generated by the walk of R112: `n` more entries from `(x, y)` at time `t`. -/
def rhoWalk : Nat → Nat → Nat → Nat → List (Nat × Nat × Nat)
  | 0, _, _, _ => []
  | n + 1, t, x, y => (x, y, ((t + 1) * (t + 2) / 2) % 64) :: rhoWalk n (t + 1) y ((2 * x + 3 * y) % 5)

end Sys2Proof.Machine
end

