-- ==== Sys2Proof/Machine/Parameters.lean ====
section
/-! DEFINITION. The parameters of this machine, at the defaults of spec/00_scope.md R7. -/

namespace Sys2Proof.Machine

/-- The 3-byte prefix `e2 8c 01` (R24, R56). -/
def electroneumPrefix : Vector Byte 3 := #v[0xe2, 0x8c, 0x01]

/-- The default `PREFIX_TABLE`: all three kinds map to `e2 8c 01` (R24, R95, decision D24). -/
def defaultPrefixTable : NetworkKind → Vector Byte 3
  | .mainnet => electroneumPrefix
  | .testnet => electroneumPrefix
  | .stagenet => electroneumPrefix

/-- This machine's parameters (R7): the default table, Keccak-256, and truncation (notes/assumptions/7.md). -/
def params : Params where
  prefixTable := defaultPrefixTable
  hash := keccak256
  overflow := .truncate

end Sys2Proof.Machine
end

