-- ==== Sys2Proof/Machine/Step.lean ====
section
/-! DEFINITION. One step of this machine: one rising edge of `clk`, at the default parameters. -/

namespace Sys2Proof.Machine

/-- One clock edge at the default parameters of R7 (notes/assumptions/7.md). -/
def step (s : State) : Host.Outcome State Fault Refusal := stepWith params s

/-- The command word of `nbits` bits `w` presented on the next edge, with the block ready (notes/assumptions/13.md). -/
def State.withFetchWord (s : State) (nbits w : Nat) : State := s.presentNext (tableWord nbits w)

end Sys2Proof.Machine
end

