-- ==== Sys2Proof/Machine/Assembler.lean ====
section
/-! DEFINITION. The textual syntax of command sequences and the pseudo-instructions (spec/30_encoding.md R66, R67). Text is a
sequence of ASCII codes. What R66 leaves open about blanks and number spellings is in notes/assumptions/14.md. -/

namespace Sys2Proof.Machine

/-- One line of a command sequence, read. -/
inductive AsmLine where
  /-- Nothing but blanks or a comment. -/
  | blank
  /-- One of the four commands (R66). -/
  | command (i : Instr)
  /-- `.word`: any word, reserved ones included (R66). -/
  | word (w : CmdWord)
  /-- `PUSHS "s"` (R67). -/
  | pushs (str : List Byte)
  /-- `VALIDATE "s", kind` (R67). -/
  | validateStr (str : List Byte) (k : Byte)
deriving DecidableEq, Repr

/-- `PUSHS`: one PUSH for each byte, in string order; nothing for the empty string (R67). -/
def pushAll (str : List Byte) : List Instr := str.map Instr.push

/-- `VALIDATE`: `CLR`, then `PUSHS`, then `RUN` (R67), the whole transaction for one address (R76). -/
def transaction (str : List Byte) (k : Byte) : List Instr := .clr :: (pushAll str ++ [.run k])

/-- The operand of the pseudo-instruction `RUN unknown` (R56, R67). -/
def unknownKind : Byte := 255

/-- The command words of a line (R66, R67). -/
def AsmLine.words : AsmLine → List CmdWord
  | .blank => []
  | .command i => [encode i]
  | .word w => [w]
  | .pushs str => (pushAll str).map encode
  | .validateStr str k => (transaction str k).map encode

/-- The pieces of a line. -/
inductive AsmToken where
  | name (cs : List Byte)
  | charLit (c : Byte)
  | strLit (cs : List Byte)
  | comma
deriving DecidableEq, Repr

/-- Where the reader of a line stands; the characters of an unfinished piece are in reverse order. -/
inductive LexMode where
  | between
  | inName (rev : List Byte)
  | charOpen
  | charBody (c : Byte)
  | inStr (rev : List Byte)
deriving DecidableEq, Repr

/-- A space or a tab. -/
def isBlank (c : Byte) : Bool := c == 0x20 || c == 0x09

/-- Cut a line into pieces. `;` (0x3b) starts a comment (R66), except inside a character or string literal. -/
def lexLine : LexMode → List Byte → Option (List AsmToken)
  | .between, [] => some []
  | .inName rev, [] => some [.name rev.reverse]
  | .charOpen, [] => none
  | .charBody _, [] => none
  | .inStr _, [] => none
  | .between, c :: cs =>
    if c = 0x3b then some []
    else if isBlank c then lexLine .between cs
    else if c = 0x2c then (lexLine .between cs).map (AsmToken.comma :: ·)
    else if c = 0x27 then lexLine .charOpen cs
    else if c = 0x22 then lexLine (.inStr []) cs
    else lexLine (.inName [c]) cs
  | .inName rev, c :: cs =>
    if c = 0x3b then some [.name rev.reverse]
    else if isBlank c then (lexLine .between cs).map (AsmToken.name rev.reverse :: ·)
    else if c = 0x2c then (lexLine .between cs).map (fun ts => AsmToken.name rev.reverse :: .comma :: ts)
    else if c = 0x27 ∨ c = 0x22 then none
    else lexLine (.inName (c :: rev)) cs
  | .charOpen, c :: cs => lexLine (.charBody c) cs
  | .charBody c, d :: cs => if d = 0x27 then (lexLine .between cs).map (AsmToken.charLit c :: ·) else none
  | .inStr rev, c :: cs =>
    if c = 0x22 then (lexLine .between cs).map (AsmToken.strLit rev.reverse :: ·) else lexLine (.inStr (c :: rev)) cs

/-- Lower case of an ASCII letter; mnemonics and kind names are case-insensitive (R66). -/
def lowerCase (c : Byte) : Byte := if 0x41 ≤ c.toNat ∧ c.toNat ≤ 0x5a then c + 0x20 else c

/-- The ASCII codes of a name. -/
def ascii (s : List Char) : List Byte := s.map fun c => BitVec.ofNat 8 c.toNat

/-- The value of a digit character in a base of at most 16. -/
def digitIn (base : Nat) (c : Byte) : Option Nat :=
  let n := (lowerCase c).toNat
  let v := if 0x30 ≤ n ∧ n ≤ 0x39 then n - 0x30 else if 0x61 ≤ n ∧ n ≤ 0x66 then n - 0x57 else base
  if v < base then some v else none

/-- The value of a digit string, most significant digit first, on from `v`. -/
def digitsValue (base : Nat) : Nat → List Byte → Option Nat
  | v, [] => some v
  | v, c :: cs =>
    match digitIn base c with
    | some d => digitsValue base (v * base + d) cs
    | none => none

/-- A number: decimal unless it begins `0x` or `0b` (R8). -/
def numberOf (cs : List Byte) : Option Nat :=
  match cs.map lowerCase with
  | [] => none
  | [c] => digitsValue 10 0 [c]
  | c :: d :: rest =>
    if c = 0x30 ∧ d = 0x78 ∧ rest ≠ [] then digitsValue 16 0 rest
    else if c = 0x30 ∧ d = 0x62 ∧ rest ≠ [] then digitsValue 2 0 rest
    else digitsValue 10 0 (c :: d :: rest)

/-- A hexadecimal number of exactly `n` digits after `0x`: `0xNN` of PUSH and `0xNNNN` of `.word` (R66). -/
def hexOf (n : Nat) (cs : List Byte) : Option Nat :=
  match cs.map lowerCase with
  | c :: d :: rest => if c = 0x30 ∧ d = 0x78 ∧ rest.length = n then digitsValue 16 0 rest else none
  | _ => none

/-- The kind operand of RUN and VALIDATE: a kind's name, `unknown`, or a number 0..255 (R66, R67). -/
def kindOperand (cs : List Byte) : Option Byte :=
  let l := cs.map lowerCase
  if l = ascii ['m', 'a', 'i', 'n', 'n', 'e', 't'] then some (kindCode .mainnet)
  else if l = ascii ['t', 'e', 's', 't', 'n', 'e', 't'] then some (kindCode .testnet)
  else if l = ascii ['s', 't', 'a', 'g', 'e', 'n', 'e', 't'] then some (kindCode .stagenet)
  else if l = ascii ['u', 'n', 'k', 'n', 'o', 'w', 'n'] then some unknownKind
  else
    match numberOf cs with
    | some n => if n < 256 then some (BitVec.ofNat 8 n) else none
    | none => none

/-- A printable ASCII character (R66). -/
def isPrintable (c : Byte) : Bool := decide (0x20 ≤ c.toNat ∧ c.toNat ≤ 0x7e)

/-- Read a line from its mnemonic, in lower case, and what follows it (R66, R67). -/
def readOperands (m : List Byte) (operands : List AsmToken) : Option AsmLine :=
  if m = ascii ['n', 'o', 'p'] then (if operands = [] then some (.command .nop) else none)
  else if m = ascii ['c', 'l', 'r'] then (if operands = [] then some (.command .clr) else none)
  else if m = ascii ['p', 'u', 's', 'h'] then
    match operands with
    | [.charLit c] => if isPrintable c then some (.command (.push c)) else none
    | [.name n] => (hexOf 2 n).map fun v => .command (.push (BitVec.ofNat 8 v))
    | _ => none
  else if m = ascii ['r', 'u', 'n'] then
    match operands with
    | [.name n] => (kindOperand n).map fun k => .command (.run k)
    | _ => none
  else if m = ascii ['.', 'w', 'o', 'r', 'd'] then
    match operands with
    | [.name n] => (hexOf 4 n).map fun v => .word (BitVec.ofNat 16 v)
    | _ => none
  else if m = ascii ['p', 'u', 's', 'h', 's'] then
    match operands with
    | [.strLit str] => some (.pushs str)
    | _ => none
  else if m = ascii ['v', 'a', 'l', 'i', 'd', 'a', 't', 'e'] then
    match operands with
    | [.strLit str, .comma, .name n] => (kindOperand n).map fun k => .validateStr str k
    | _ => none
  else none

/-- Read one line (R66, R67); `none` if it is not of the syntax. -/
def readLine (text : List Byte) : Option AsmLine :=
  match lexLine .between text with
  | some [] => some .blank
  | some (.name m :: operands) => readOperands (m.map lowerCase) operands
  | _ => none

/-- The command words of a sequence of lines (R66). -/
def assemble : List (List Byte) → Option (List CmdWord)
  | [] => some []
  | t :: ts =>
    match readLine t, assemble ts with
    | some l, some ws => some (l.words ++ ws)
    | _, _ => none

end Sys2Proof.Machine
end

