-- ==== Sys2Proof/Safety.lean ====
section
/-! DEFINITION. What claims are stated in: legal status values, what a result describes, the string a history of commands
has pushed, and runs without reset. -/

namespace Sys2Proof.Machine

/-- The legal combinations of R20: `DONE = 0` implies `VALID = 0` and `ERR = 0`; `VALID = 1` implies `DONE = 1` and `ERR = 0`;
`DONE = 1` with `VALID = 0` implies `ERR` in 1..5; `BUSY = 1` implies `DONE = 0`. -/
def Status.Legal (st : Status) : Prop :=
  (st.done = false → st.valid = false ∧ st.err = 0#3) ∧
  (st.valid = true → st.done = true ∧ st.err = 0#3) ∧
  (st.done = true → st.valid = false → 1 ≤ st.err.toNat ∧ st.err.toNat ≤ 5) ∧
  (st.busy = true → st.done = false)

/-- `DONE = 1` means that `VALID` and `ERR` hold the result of a RUN on the current `ABUF` and `LEN` (R15, R16). -/
def ResultDescribesBuffer (s : State) : Prop :=
  s.status.done = true → ∃ k : Byte, (s.status.valid, s.status.err) = result params s.abuf s.len k

/-- `ABUF` and `LEN` hold the string `str`: `LEN` is its length, saturated at 127, and its first 98 symbols stand in
`ABUF` in order (R11, R12, R32). -/
def HoldsString (s : State) (str : List Byte) : Prop :=
  s.len.toNat = min str.length Config.lenMax ∧
    ∀ i, i < Config.addrLen → ∀ c, str[i]? = some c → s.abuf.toList[i]? = some c

/-- The characters pushed since the last CLR or reset, after one more edge event (R11, R146). -/
def pushedAfter (str : List Byte) : EdgeEvent → List Byte
  | .reset => []
  | .command .clr => []
  | .command (.push c) => str ++ [c]
  | .command .nop => str
  | .command (.run _) => str
  | .stalled => str
  | .complete => str
  | .idle => str
  | .reserved _ => str

/-- No listed edge asserts `rst`. -/
def NoReset (s : State) : Prop := ∀ e ∈ s.edges, e.rst = false

/-- The edges on which the host presents the listed command words, one word an edge. -/
def presentAll (ws : List CmdWord) : List Edge := ws.map Edge.present

/-- Edges during which a RUN in progress goes on: no reset, and `T_RUN` not yet elapsed (R150). -/
def AllStall (es : List Edge) : Prop := ∀ e ∈ es, e.rst = false ∧ e.stall = true

/-- The next edge lets a RUN in progress complete: no reset, and `T_RUN` elapsed. -/
def CompletesNext (s : State) : Prop := s.nextEdge.rst = false ∧ s.nextEdge.stall = false

/-- A command word the block may accept on the next edge: `cmd_valid = 1`, `cmd_ready = 1`, no reset (R40). -/
def AcceptsNext (s : State) : Prop := s.nextEdge.rst = false ∧ s.cmdReady = true ∧ s.nextEdge.cmdValid = true

/-- The words that R62 calls reserved: `OP` is 0x4..0xf, or `RSV` is not 0, or `OP` is 0x0 or 0x1 and `ARG` is not 0. -/
def IsReserved (w : CmdWord) : Prop :=
  4 ≤ w.op.toNat ∨ w.rsv ≠ 0#4 ∨ (w.op.toNat ≤ 1 ∧ w.arg ≠ 0#8)

/-- The command words one by one: NOP, CLR, 256 PUSHes and 256 RUNs (R51). -/
def commandWords : List CmdWord :=
  0x0000 :: 0x1000 :: ((List.range 256).map (fun n => BitVec.ofNat 16 (0x2000 + n)) ++
    (List.range 256).map fun n => BitVec.ofNat 16 (0x3000 + n))

/-- The status after a RUN whose result is `r`, from the status before it (R74 step 2). -/
def Status.afterRun (st : Status) (r : Bool × BitVec 3) : Status :=
  { done := true, valid := r.1, err := r.2, busy := false, cmderr := st.cmderr }

/-- `n` clock edges with the parameters `p`, one step each: what the host's `Host.Core.run` gives for `coreWith p`
(`runEdgesWith_eq_run`). -/
def runEdgesWith (p : Params) : Nat → State → Host.Outcome State Fault Refusal
  | 0, s => .next s
  | n + 1, s =>
    match stepWith p s with
    | .next t => runEdgesWith p n t
    | .fault r => .fault r
    | .refused r => .refused r

/-- `n` clock edges at the default parameters: the host's run of this machine (`runEdges_eq_run`). -/
def runEdges (n : Nat) (s : State) : Host.Outcome State Fault Refusal := runEdgesWith params n s

/-- A run of `n` edges that ends in `t` with `CMDERR` clear: the block never stops, and no reserved word was accepted that a
reset has not cleared (R131 lets a claim take this as a premise). -/
def SafeRun (s : State) (n : Nat) (t : State) : Prop :=
  runEdges n s = .next t ∧ t.status.cmderr = false

end Sys2Proof.Machine
end

