-- ==== Sys2Proof/Certificates/Slice0/Obligations.lean ====
section
/-! DEFINITION. The statements for the provers. Each cites the rules it formalises; the list is OBLIGATIONS.json. -/

open Sys2Proof Sys2Proof.Machine

/-! ## Encoding -/

/-- Decoding the encoding of any well-formed instruction gives it back (R51, R52, R53). -/
def Obligations.DecodeOfEncode : Prop :=
  ∀ i : Instr, i.wf = true → decode (encode i) = .ok i

/-- A word that decodes to an instruction is that instruction's encoding: each word has one meaning (R51). -/
def Obligations.EncodeOfDecode : Prop :=
  ∀ (w : CmdWord) (i : Instr), decode w = .ok i → encode i = w

/-- The decoder follows the match and mask of every row of the opcode map; the patterns are disjoint; 514 words are commands
and the other 65022 are reserved (R51). -/
def Obligations.DecodeFollowsOpcodeMap : Prop :=
  (∀ w : CmdWord,
    (decode w = .ok .nop ↔ w &&& 0xffff = 0x0000) ∧
    (decode w = .ok .clr ↔ w &&& 0xffff = 0x1000) ∧
    (∀ c : Byte, decode w = .ok (.push c) ↔ w &&& 0xff00 = 0x2000 ∧ c.toNat = (w &&& 0x00ff).toNat) ∧
    (∀ k : Byte, decode w = .ok (.run k) ↔ w &&& 0xff00 = 0x3000 ∧ k.toNat = (w &&& 0x00ff).toNat)) ∧
  (∀ w : CmdWord, (∃ why, decode w = .error why) ↔ ∀ r ∈ opRows, r.covers w = false) ∧
  (∀ w : CmdWord, ∀ r ∈ opRows, ∀ r' ∈ opRows, r.covers w = true → r'.covers w = true → r = r') ∧
  commandWords.length = 514 ∧ 2 ^ 16 - commandWords.length = 65022 ∧ commandWords.Nodup ∧ (∀ w : CmdWord, CmdWord.wf w = true ↔ w ∈ commandWords)

/-- A word is reserved in exactly the three cases of R62; accepting one sets `CMDERR` and changes nothing else. -/
def Obligations.ReservedWordSetsCmderrOnly : Prop :=
  (∀ w : CmdWord, CmdWord.wf w = false ↔ IsReserved w) ∧
  (∀ w : CmdWord, (∃ why, decode w = .error why) ↔ IsReserved w) ∧
  (∀ s : State, AcceptsNext s → IsReserved s.nextEdge.cmd →
    step s = .next { s with status := { s.status with cmderr := true }, edges := s.edges.tail })

/-- Words written out from R51 and the vectors of spec/95_test_vectors.md decode to what they stand for. -/
def Obligations.SpecWordsDecode : Prop :=
  decode 0x0000 = .ok .nop ∧ decode 0x1000 = .ok .clr ∧ decode 0x2065 = .ok (.push 0x65) ∧
  decode 0x20ff = .ok (.push 0xff) ∧ decode 0x3000 = .ok (.run 0) ∧ decode 0x3002 = .ok (.run 2) ∧
  decode 0x30ff = .ok (.run 255) ∧ decode 0x4000 = .error .opcode ∧ decode 0x2165 = .error .reservedField ∧
  decode 0x0001 = .error .argument ∧ decode 0x1001 = .error .argument

/-! ## The port and the step -/

/-- When the word at the port is accepted and decodes to a well-formed instruction, the step is that instruction's meaning,
after the edge has passed (R40, R44). That the words to come stand in a list of edges is the model's own (log entry 2), and so is
the second clause: `withFetchWord` overwrites the next edge with a word and clears `BUSY`, so that the very next step accepts it
(log entry 13). -/
def Obligations.StepRunsDecodedCommand : Prop :=
  (∀ (s : State) (i : Instr), AcceptsNext s → decode s.nextEdge.cmd = .ok i → i.wf = true →
    step s = exec i { s with edges := s.edges.tail }) ∧
  (∀ (s : State) (nbits w : Nat) (i : Instr), decode (tableWord nbits w) = .ok i →
    step (s.withFetchWord nbits w) =
      exec i { s with edges := s.edges.tail, status := { s.status with busy := false } })

/-- A word that is not accepted, because `cmd_valid = 0` or a RUN is in progress, is ignored: the step does not depend on it,
and on an edge with neither reset nor a RUN in progress nothing happens (R40). -/
def Obligations.UnacceptedWordIgnored : Prop :=
  (∀ (s : State) (e : Edge) (es : List Edge) (w : CmdWord),
    e.cmdValid = false ∨ s.cmdReady = false →
    step { s with edges := { e with cmd := w } :: es } = step { s with edges := e :: es }) ∧
  (∀ s : State, s.nextEdge.rst = false → s.cmdReady = true → s.nextEdge.cmdValid = false →
    step s = .next { s with edges := s.edges.tail })

/-- `cmd_ready` is 1 after reset, and 0 after an edge exactly when that edge accepted a RUN or a RUN went on in it (R41). That
a RUN goes on for as many edges as carry `stall` is the model's choice (log entry 2). -/
def Obligations.CmdReadyLowOnlyDuringRun : Prop :=
  State.reset.cmdReady = true ∧
  (∀ s : State, s.cmdReady = !s.status.busy) ∧
  (∀ s t : State, step s = .next t →
    (t.cmdReady = false ↔ (∃ k, s.event = .command (.run k)) ∨ s.event = .stalled))

/-- Every step answers a next state: the block never faults and never refuses (R101, R127). -/
def Obligations.StepAlwaysAnswersNext : Prop :=
  ∀ s : State, ∃ t : State, step s = .next t

/-- A step consumes one clock edge of what the host drives. The list of edges is the model's own (log entry 2). -/
def Obligations.StepConsumesOneEdge : Prop :=
  ∀ s t : State, step s = .next t → t.edges = s.edges.tail

/-- An edge with `rst = 1`, whatever else it carries and whatever the state: no command is accepted, `LEN = 0`, `STATUS = 0x00`,
the block is ready, a RUN in progress is abandoned; and no other edge clears `CMDERR` (R140). Of the registers that R140 leaves
unspecified nothing is said. -/
def Obligations.ResetEdgeClearsLenAndStatus : Prop :=
  (∀ s : State, s.nextEdge.rst = true →
    (∀ i, s.event ≠ .command i) ∧ (∀ why, s.event ≠ .reserved why) ∧
    ∃ t : State, step s = .next t ∧ t.len = 0#7 ∧ t.status = Status.zero ∧ t.statusPort = 0x00 ∧ t.cmdReady = true ∧
      t.edges = s.edges.tail) ∧
  (∀ s t : State, step s = .next t → s.status.cmderr = true → t.status.cmderr = false → s.nextEdge.rst = true)

/-- `State.reset` has what the spec gives: `LEN = 0`, `STATUS = 0x00`, `cmd_ready = 1` (R29). -/
def Obligations.ResetStateValues : Prop :=
  State.reset.len = 0#7 ∧ State.reset.status.pack = 0x00 ∧ State.reset.status.done = false ∧
  State.reset.status.valid = false ∧ State.reset.status.err = 0#3 ∧ State.reset.status.busy = false ∧
  State.reset.status.cmderr = false ∧ State.reset.cmdReady = true

/-! ## The commands -/

/-- NOP: `0x0000`; nothing changes; no other word with `OP = 0` is NOP; not accepted during a RUN (R70). -/
def Obligations.NopChangesNothing : Prop :=
  encode .nop = 0x0000 ∧
  (∀ s : State, exec .nop s = .next s) ∧
  (∀ w : CmdWord, w.op = 0#4 → w ≠ 0x0000 → ∃ why, decode w = .error why) ∧
  (∀ s : State, s.status.busy = true → s.event ≠ .command .nop)

/-- CLR: `0x1000`; `LEN`, `DONE`, `VALID` and `ERR` become 0 and nothing else changes; repeating it changes nothing; no other
command lowers `LEN`; it is not accepted during a RUN (R71). That the entries of `ABUF` keep their values is read from R10
(log entry 4). -/
def Obligations.ClrClearsLenAndResult : Prop :=
  encode .clr = 0x1000 ∧
  (∀ s : State, exec .clr s =
    .next { s with len := 0#7, status := { s.status with done := false, valid := false, err := 0#3 } }) ∧
  (∀ s t : State, exec .clr s = .next t → exec .clr t = .next t) ∧
  (∀ (i : Instr) (s t : State), exec i s = .next t → t.len.toNat < s.len.toNat → i = .clr) ∧
  (∀ s : State, s.status.busy = true → s.event ≠ .command .clr)

/-- PUSH: `0x2000 + c`; the symbol goes to `ABUF[LEN]` if `LEN < 98` and nowhere otherwise, `LEN` becomes `min(LEN+1, 127)`,
the result is cleared, and nothing else changes (R72). -/
def Obligations.PushAppendsOneSymbol : Prop :=
  (∀ c : Byte, (encode (.push c)).toNat = 0x2000 + c.toNat) ∧
  (∀ (c : Byte) (s : State), ∃ t : State, exec (.push c) s = .next t ∧
    (s.len.toNat < 98 → t.abuf.toList[s.len.toNat]? = some c) ∧
    (∀ i : Nat, i ≠ s.len.toNat → t.abuf.toList[i]? = s.abuf.toList[i]?) ∧
    t.len.toNat = min (s.len.toNat + 1) 127 ∧
    t.status = { s.status with done := false, valid := false, err := 0#3 } ∧
    t.kreg = s.kreg ∧ t.pay = s.pay ∧ t.dig = s.dig ∧ t.hashCore = s.hashCore ∧ t.acc = s.acc ∧
    t.edges = s.edges ∧ t.freeIdx = s.freeIdx)

/-- RUN: `0x3000 + k`; acceptance latches the kind, clears the result and sets `BUSY`; while `T_RUN` has not elapsed nothing
changes; completion writes `VALID`, `ERR`, `DONE` and `BUSY` from `RESULT` and leaves `ABUF`, `LEN` and `CMDERR`; `ABUF` does not
matter unless `LEN = 98` (R74). That `T_RUN` is counted in edges, and that nothing but the port's edges changes in it, are the
model's choices (log entries 2 and 15). -/
def Obligations.RunAcceptsThenCompletes : Prop :=
  (∀ k : Byte, (encode (.run k)).toNat = 0x3000 + k.toNat) ∧
  (∀ (k : Byte) (s : State), exec (.run k) s =
    .next { s with
      kreg := k
      status := { done := false, valid := false, err := 0#3, busy := true, cmderr := s.status.cmderr } }) ∧
  (∀ s : State, s.status.busy = true → s.nextEdge.rst = false → s.nextEdge.stall = true →
    step s = .next { s with edges := s.edges.tail }) ∧
  (∀ s : State, s.status.busy = true → CompletesNext s →
    ∃ t : State, step s = .next t ∧ t.status = s.status.afterRun (result params s.abuf s.len s.kreg) ∧
      t.abuf = s.abuf ∧ t.len = s.len ∧ t.edges = s.edges.tail) ∧
  (∀ (p : Params) (abuf abuf' : Vector Byte 98) (len : BitVec 7) (k : Byte), len.toNat ≠ 98 →
    result p abuf len k = result p abuf' len k)

/-- From any state with `BUSY = 0`, a RUN with any operand and any finite `T_RUN` ends with `DONE = 1` and either `VALID = 1` and
`ERR = 0`, or `VALID = 0` and `ERR` in 1..5; it is the result on the buffer as it stood (R101). The list of edges and the bit
`stall` that spells out `T_RUN` are the model's own (log entry 2). -/
def Obligations.RunAlwaysEndsInResult : Prop :=
  ∀ (s : State) (k : Byte) (waits rest : List Edge) (e : Edge),
    s.status.busy = false → AllStall waits → e.rst = false → e.stall = false →
    s.edges = Edge.present (encode (.run k)) :: (waits ++ e :: rest) →
    ∃ t : State, runEdges (waits.length + 2) s = .next t ∧
      t.status = s.status.afterRun (result params s.abuf s.len k) ∧
      ((t.status.valid = true ∧ t.status.err = 0#3) ∨
        (t.status.valid = false ∧ 1 ≤ t.status.err.toNat ∧ t.status.err.toNat ≤ 5)) ∧
      t.abuf = s.abuf ∧ t.len = s.len ∧ t.edges = rest

/-- Every accepted RUN completes unless reset intervenes, within one edge more than the host has scheduled, with the result on
the buffer as it stands (R150, R151). That `T_RUN` is bounded by the list of edges is the model's choice (log entry 2). -/
def Obligations.EveryRunCompletesWithoutReset : Prop :=
  ∀ s : State, s.status.busy = true → NoReset s →
    ∃ (n : Nat) (t : State), n ≤ s.edges.length + 1 ∧ runEdges n s = .next t ∧
      t.status = s.status.afterRun (result params s.abuf s.len s.kreg) ∧ t.abuf = s.abuf ∧ t.len = s.len

/-- Running the same RUN again gives the same result, and a RUN with another kind is a RUN on the same buffer (R28). -/
def Obligations.RepeatedRunGivesSameResult : Prop :=
  ∀ (s : State) (k k' : Byte),
    let first := completeRun params (s.startRun k)
    (completeRun params (first.startRun k)).status = first.status ∧
    (completeRun params (first.startRun k')).status = (completeRun params (s.startRun k')).status ∧
    first.abuf = s.abuf ∧ first.len = s.len

/-- `LEN` after an edge: one more, saturated at 127, for PUSH; 0 for CLR and reset; unchanged otherwise (R12). -/
def Obligations.LenFollowsEdgeEvent : Prop :=
  ∀ s t : State, step s = .next t →
    match s.event with
    | .reset => t.len = 0#7
    | .command .clr => t.len = 0#7
    | .command (.push _) => t.len.toNat = min (s.len.toNat + 1) 127
    | _ => t.len = s.len

/-- Only PUSH writes `ABUF`; a reset leaves it unspecified, and this says nothing of it (R10, R140). -/
def Obligations.AbufWrittenOnlyByPush : Prop :=
  ∀ s t : State, step s = .next t → s.event ≠ .reset → (∀ c, s.event ≠ .command (.push c)) → t.abuf = s.abuf

/-- `CMDERR` after an edge: 0 for reset, 1 for a reserved word, unchanged otherwise; it does not change what RUN computes; and
`status[7]` reads 0 (R19). -/
def Obligations.CmderrIsSticky : Prop :=
  (∀ s t : State, step s = .next t →
    match s.event with
    | .reset => t.status.cmderr = false
    | .reserved _ => t.status.cmderr = true
    | _ => t.status.cmderr = s.status.cmderr) ∧
  (∀ (s : State) (b : Bool),
    completeRun params { s with status := { s.status with cmderr := b } } =
      { completeRun params s with status := { (completeRun params s).status with cmderr := b } }) ∧
  (∀ st : Status, st.pack.getLsbD 7 = false)

/-! ## The status register -/

/-- The packed layout of `STATUS`, and the values that a legal status can take: the low six bits are one of eight, and bit 6 is
`CMDERR` (R20). -/
def Obligations.StatusPackedLayout : Prop :=
  (∀ st : Status, st.pack.getLsbD 0 = st.done ∧ st.pack.getLsbD 1 = st.valid ∧ st.pack.extractLsb' 2 3 = st.err ∧
    st.pack.getLsbD 5 = st.busy ∧ st.pack.getLsbD 6 = st.cmderr ∧ st.pack.getLsbD 7 = false) ∧
  (∀ st : Status, st.Legal →
    (st.pack.extractLsb' 0 6).toNat ∈ [0x00, 0x20, 0x03, 0x05, 0x09, 0x0d, 0x11, 0x15])

/-- Every step keeps the legal combinations of `STATUS` (R20). -/
def Obligations.StepKeepsStatusLegal : Prop :=
  ∀ s t : State, s.status.Legal → step s = .next t → t.status.Legal

/-- The legal combinations of `STATUS` hold right after reset (R20, R29). -/
def Obligations.ResetStatusLegal : Prop := State.reset.status.Legal

/-- Every step keeps it true that `DONE = 1` means that `VALID` and `ERR` are the result of a RUN on the current `ABUF` and `LEN`
(R15, R16). -/
def Obligations.StepKeepsResultDescribesBuffer : Prop :=
  ∀ s t : State, ResultDescribesBuffer s → step s = .next t → ResultDescribesBuffer t

/-- Right after reset no result is shown, `DONE = 0` (R29), and so the invariant of `StepKeepsResultDescribesBuffer` holds there. -/
def Obligations.ResetResultDescribesBuffer : Prop :=
  State.reset.status.done = false ∧ ResultDescribesBuffer State.reset

/-! ## The pushed string -/

/-- Every step keeps `ABUF` and `LEN` holding the string pushed since the last CLR or reset: one symbol longer after a PUSH,
empty after a CLR or a reset, the same otherwise (R11, R12, R146). -/
def Obligations.StepTracksPushedString : Prop :=
  ∀ (s t : State) (str : List Byte), HoldsString s str → step s = .next t → HoldsString t (pushedAfter str s.event)

/-- Right after reset the buffer holds the empty string (R29). -/
def Obligations.ResetHoldsEmptyString : Prop := HoldsString State.reset []

/-- When `ABUF` and `LEN` hold a string, RUN reports `VALID` exactly when the source's function accepts that string; so never for
a string of another length than 98 (R146). -/
def Obligations.ResultIsAboutPushedString : Prop :=
  (∀ (p : Params) (s : State) (str : List Byte) (k : Byte), HoldsString s str →
    (result p s.abuf s.len k).1 = validate p str k) ∧
  (∀ (p : Params) (str : List Byte) (k : Byte), str.length ≠ 98 → validate p str k = false)

/-- With any parameters and from any state with `BUSY = 0`: after CLR, one PUSH for each symbol of any string, and RUN, and the
completion of that RUN, `DONE = 1`, `VALID` is the source's function of the string and the kind, and `LEN` is the length saturated
at 127 (R76, R7). `runEdges` is the case of the default parameters. The list of edges, and the bit `stall` that lets the RUN complete
on the edge `e`, are the model's own (log entry 2). -/
def Obligations.TransactionComputesValidate : Prop :=
  ∀ (p : Params) (s : State) (str : List Byte) (k : Byte) (e : Edge) (rest : List Edge),
    s.status.busy = false → e.rst = false → e.stall = false →
    s.edges = presentAll ((transaction str k).map encode) ++ e :: rest →
    ∃ t : State, runEdgesWith p (str.length + 3) s = .next t ∧
      t.status.done = true ∧ t.status.valid = validate p str k ∧ t.status.busy = false ∧
      t.status.cmderr = s.status.cmderr ∧ t.len.toNat = min str.length 127 ∧ t.edges = rest

/-- The pseudo-instructions expand to words that decode to `CLR`, the PUSHes in string order, and `RUN` (R67). -/
def Obligations.PseudoInstructionsExpand : Prop :=
  (∀ str : List Byte, (AsmLine.pushs str).words.map decode = str.map fun c => .ok (.push c)) ∧
  (∀ (str : List Byte) (k : Byte), (AsmLine.validateStr str k).words.map decode =
    .ok .clr :: (str.map fun c => .ok (.push c)) ++ [.ok (.run k)]) ∧
  (AsmLine.command (.run unknownKind)).words = [0x30ff]

/-! ## The verifier -/

/-- The micro-operation sequence of RUN computes `RESULT`, for every parameter value, whatever `PAY`, `DIG` and the accumulator
held before (R75, R90). -/
def Obligations.MicroSequenceComputesResult : Prop :=
  ∀ (p : Params) (s : State),
    (verifyBuffer p s).status = s.status.afterRun (result p s.abuf s.len s.kreg) ∧
    (verifyBuffer p s).abuf = s.abuf ∧ (verifyBuffer p s).len = s.len

/-- Raising a reject writes `VALID = 0`, `ERR = code`, `DONE = 1`, `BUSY = 0` and nothing else; and a RUN whose sequence raises it
ends with that status, `ABUF` and `LEN` unchanged (R126). -/
def Obligations.RejectEntryWritesStatusOnly : Prop :=
  (∀ (s : State) (r : Reject), s.raiseReject r =
    { s with status := { done := true, valid := false, err := r.code, busy := false, cmderr := s.status.cmderr } }) ∧
  (∀ (p : Params) (s : State) (r : Reject), runMicros (runSequence p) s = .error r →
    (completeRun p s).status = s.status.afterRun (false, r.code) ∧
    (completeRun p s).abuf = s.abuf ∧ (completeRun p s).len = s.len) ∧
  ([Reject.inputType, .length, .alphabet, .pfxMismatch, .checksum].map fun r => r.code.toNat) = [1, 2, 3, 4, 5]

/-- The check reported is the first that fails, in the order INPUT_TYPE, LENGTH, ALPHABET, PREFIX, CHECKSUM, and the RUN is
accepted when none fails; under `OVERFLOW = truncate` (R129). -/
def Obligations.FirstFailingCheckReported : Prop :=
  ∀ (p : Params) (abuf : Vector Byte 98) (len : BitVec 7) (k : Byte), p.overflow = .truncate →
    (2 < k.toNat → result p abuf len k = (false, 1#3)) ∧
    (k.toNat ≤ 2 → len.toNat ≠ 98 → result p abuf len k = (false, 2#3)) ∧
    (k.toNat ≤ 2 → len.toNat = 98 → (∃ c ∈ abuf.toList, digit c = none) → result p abuf len k = (false, 3#3)) ∧
    (∀ kind, kindOf k = some kind → len.toNat = 98 → (∀ c ∈ abuf.toList, digit c ≠ none) →
      ∃ pay, decodePayload p abuf.toList = some pay ∧
        (payPrefix pay ≠ (p.prefixTable kind).toList → result p abuf len k = (false, 4#3)) ∧
        (payPrefix pay = (p.prefixTable kind).toList →
          slice (p.hash (paySpendView pay)).toList 0 4 ≠ payChecksum pay → result p abuf len k = (false, 5#3)) ∧
        (payPrefix pay = (p.prefixTable kind).toList →
          slice (p.hash (paySpendView pay)).toList 0 4 = payChecksum pay → result p abuf len k = (true, 0#3)))

/-- `VALID = 1` exactly when: the kind is 0, 1 or 2; `LEN = 98`; every symbol is in the alphabet; the first three decoded bytes are
the expected prefix; and the first four bytes of the hash of the first 67 decoded bytes are the last four (R104). -/
def Obligations.AcceptanceCondition : Prop :=
  ∀ (p : Params) (abuf : Vector Byte 98) (len : BitVec 7) (k : Byte), p.overflow = .truncate →
    ((result p abuf len k).1 = true ↔
      (k = 0#8 ∨ k = 1#8 ∨ k = 2#8) ∧ len = 98#7 ∧ (∀ c ∈ abuf.toList, ∃ d, digit c = some d) ∧
      ∃ kind pay, kindOf k = some kind ∧ decodePayload p abuf.toList = some pay ∧
        pay.take 3 = (p.prefixTable kind).toList ∧ (p.hash (pay.take 67)).toList.take 4 = pay.drop 67)

/-- With the default table the three kinds give the same result on the same buffer (R103). -/
def Obligations.KindsGiveSameResultByDefault : Prop :=
  ∀ (abuf : Vector Byte 98) (len : BitVec 7) (k k' : Byte), k.toNat ≤ 2 → k'.toNat ≤ 2 →
    result params abuf len k = result params abuf len k'

/-- PREFIX is raised only when the whole address decoded, and depends only on the first 11 characters and the kind (R124). -/
def Obligations.PrefixRejectDependsOnFirstBlock : Prop :=
  (∀ (p : Params) (abuf : Vector Byte 98) (len : BitVec 7) (k : Byte),
    result p abuf len k = (false, 4#3) → ∃ pay, decodePayload p abuf.toList = some pay) ∧
  (∀ (p : Params) (abuf abuf' : Vector Byte 98) (len : BitVec 7) (k : Byte) (pay pay' : List Byte),
    decodePayload p abuf.toList = some pay → decodePayload p abuf'.toList = some pay' →
    abuf.toList.take 11 = abuf'.toList.take 11 →
    (result p abuf len k = (false, 4#3) ↔ result p abuf' len k = (false, 4#3)))

/-- With the default table, a decoded address passes the prefix check exactly when the value of its first block, reduced to 64
bits, has 0xe28c01 in its top 24 bits (R96). -/
def Obligations.PrefixIsTopBitsOfFirstBlock : Prop :=
  ∀ (addr pay : List Byte) (v : Nat) (kind : NetworkKind), addr.length = 98 →
    decodePayload params addr = some pay → blockValue (addr.take 11) = some v →
    (payPrefix pay = (params.prefixTable kind).toList ↔ v % 2 ^ 64 / 2 ^ 40 = 0xe28c01)

/-- The hash wrapper writes the digest of exactly `PAY[0..66]`, so the checksum bytes do not matter to it (R97). -/
def Obligations.HashCallDigestsSpendView : Prop :=
  ∀ (p : Params) (s : State),
    hashCall p s = .ok { s with dig := p.hash (s.pay.toList.take 67) } ∧
    ∀ s' : State, s'.pay.toList.take 67 = s.pay.toList.take 67 →
      ∃ t t' : State, hashCall p s = .ok t ∧ hashCall p s' = .ok t' ∧ t'.dig = t.dig

/-- The checksum comparator passes exactly when `DIG[i] = PAY[67+i]` for `i` in 0..3, and otherwise raises CHECKSUM (R98). -/
def Obligations.ChecksumComparesFourBytes : Prop :=
  ∀ s : State,
    ((∀ i, i < 4 → s.dig.toList[i]? = s.pay.toList[67 + i]?) → csumCmp s = .ok s) ∧
    ((∃ i, i < 4 ∧ s.dig.toList[i]? ≠ s.pay.toList[67 + i]?) → csumCmp s = .error .checksum)

/-- `EQ` of two byte sequences of one length is equality at every index (R100). -/
def Obligations.EqIsBytewise : Prop :=
  ∀ (n : Nat) (x y : List Byte), x.length = n → y.length = n →
    (bytesEq x y = true ↔ ∀ i, i < n → x[i]? = y[i]?)

/-! ## The block decoder -/

/-- A symbol's digit is its index in the 58-character alphabet, and there is none for a symbol outside it (R58). -/
def Obligations.DigitIsAlphabetIndex : Prop :=
  alphabet.length = 58 ∧
  (∀ (c : Byte) (d : Nat), digit c = some d ↔ alphabet[d]? = some c) ∧
  (∀ c : Byte, digit c = none ↔ c ∉ alphabet) ∧
  digit 0x31 = some 0 ∧ digit 0x7a = some 57

/-- Horner's rule computes the positional sum of R82, below `58^n` for `n` digits; and reducing after every step gives the sum
reduced (R82, R88). -/
def Obligations.HornerIsPositionalSum : Prop :=
  (∀ ds : List Nat, hornerValue ds = positionalValue ds) ∧
  (∀ ds : List Nat, (∀ d ∈ ds, d < 58) → positionalValue ds < 58 ^ ds.length) ∧
  (∀ (m : Nat) (ds : List Nat), (ds.foldl (fun v d => (v * 58 + d) % 2 ^ m) 0) = positionalValue ds % 2 ^ m)

/-- BLKDEC8: the eight bytes of `V mod 2^64`, most significant first, go to `PAY[8b..8b+7]`; `V` is below `58^11`; beside `PAY` and the
accumulator nothing changes; and a character without a digit raises ALPHABET (R82). -/
def Obligations.BlkDec8WritesBigEndianGroup : Prop :=
  ∀ (p : Params) (s : State) (b : Nat), p.overflow = .truncate → b < 8 →
    (∀ ds, digitsOf (slice s.abuf.toList (11 * b) 11) = some ds →
      ∃ t : State, blkDec8 p b s = .ok t ∧
        (∀ i, i < 8 → t.pay.toList[8 * b + i]? =
          some (BitVec.ofNat 8 ((positionalValue ds % 2 ^ 64) >>> (56 - 8 * i)))) ∧
        (∀ j, j < 8 * b ∨ 8 * b + 8 ≤ j → t.pay.toList[j]? = s.pay.toList[j]?) ∧
        positionalValue ds < 58 ^ 11 ∧ { t with pay := s.pay, acc := s.acc } = s) ∧
    (digitsOf (slice s.abuf.toList (11 * b) 11) = none → blkDec8 p b s = .error .alphabet)

/-- BLKDEC7: the seven bytes of `V mod 2^56`, most significant first, go to `PAY[64..70]`; `V` is below `58^10`; otherwise
as BLKDEC8 (R83). -/
def Obligations.BlkDec7WritesTailGroup : Prop :=
  ∀ (p : Params) (s : State), p.overflow = .truncate →
    (∀ ds, digitsOf (slice s.abuf.toList 88 10) = some ds →
      ∃ t : State, blkDec7 p s = .ok t ∧
        (∀ i, i < 7 → t.pay.toList[64 + i]? =
          some (BitVec.ofNat 8 ((positionalValue ds % 2 ^ 56) >>> (48 - 8 * i)))) ∧
        (∀ j, j < 64 → t.pay.toList[j]? = s.pay.toList[j]?) ∧
        positionalValue ds < 58 ^ 10 ∧ { t with pay := s.pay, acc := s.acc } = s) ∧
    (digitsOf (slice s.abuf.toList 88 10) = none → blkDec7 p s = .error .alphabet)

/-- After a block decode the accumulator holds the block's value exactly, whatever `OVERFLOW` is: a full block's value needs at most
65 bits, a tail block's at most 59 (R88). That the accumulator keeps all 65 bits is the model's choice (log entry 15): R27 also lets
an implementation keep only the low 64. -/
def Obligations.AccumulatorHoldsBlockValue : Prop :=
  ∀ (p : Params) (s t : State) (b : Nat), b ≤ 8 → blkDec p b s = .ok t →
    ∃ v : Nat, blockValue (blockChars s.abuf.toList b) = some v ∧ t.acc.toNat = v ∧
      (b < 8 → v < 58 ^ 11) ∧ (b = 8 → v < 58 ^ 10) ∧ 58 ^ 11 < 2 ^ 65 ∧ 58 ^ 10 < 2 ^ 59

/-- DECODE fails exactly when one of the 98 characters has no digit, and then with ALPHABET (R86). -/
def Obligations.DecodeFailsOnForeignSymbolOnly : Prop :=
  ∀ (p : Params) (s : State), p.overflow = .truncate →
    ((∃ c ∈ s.abuf.toList, digit c = none) → decodeAddr p s = .error .alphabet) ∧
    ((∀ c ∈ s.abuf.toList, digit c ≠ none) → ∃ t : State, decodeAddr p s = .ok t)

/-- The payload has 71 bytes, and the group of each block stands at eight times the block's number (R38, R84). -/
def Obligations.PayloadConcatenatesGroups : Prop :=
  ∀ (p : Params) (addr pay : List Byte), decodePayload p addr = some pay →
    pay.length = 71 ∧
    (∀ b, b < 8 → decodeBlock p addr b = some (slice pay (8 * b) 8)) ∧
    decodeBlock p addr 8 = some (slice pay 64 7)

/-- The nine block decodes may be done in any order: the same payload, or the same reject (R84). -/
def Obligations.BlockOrderDoesNotMatter : Prop :=
  ∀ (p : Params) (s : State) (bs : List Nat), bs.Perm (List.range 9) →
    (∀ r, blkDecs p bs s = .error r ↔ decodeAddr p s = .error r) ∧
    (∀ t t' : State, blkDecs p bs s = .ok t → decodeAddr p s = .ok t' → t.pay = t'.pay)

/-- Two full blocks (or two tail blocks) decode to the same bytes exactly when their values agree modulo `2^64` (`2^56`); under
`OVERFLOW = reject` a block fails exactly when its value needs more bytes (R87). -/
def Obligations.OverflowTruncatesOrRejects : Prop :=
  ∀ (p : Params) (addr addr' : List Byte) (b v v' : Nat),
    blockValue (blockChars addr b) = some v → blockValue (blockChars addr' b) = some v' →
    (p.overflow = .truncate →
      (decodeBlock p addr b = decodeBlock p addr' b ↔ v % 2 ^ (8 * blockBytes b) = v' % 2 ^ (8 * blockBytes b))) ∧
    (p.overflow = .reject → (decodeBlock p addr b = none ↔ 2 ^ (8 * blockBytes b) ≤ v))

/-- Distinct blocks of one length have distinct values, so without overflow the map from blocks to bytes is injective (R89). -/
def Obligations.BlockValueIsInjective : Prop :=
  (∀ (cs cs' : List Byte) (v : Nat), cs.length = cs'.length → blockValue cs = some v → blockValue cs' = some v →
    cs = cs') ∧
  (∀ n v v' : Nat, v < 2 ^ (8 * n) → v' < 2 ^ (8 * n) → stripBytes n v = stripBytes n v' → v = v')

/-- The last 8 (tail: 7) bytes of a general-purpose decoder's buffer are the bytes the block decoder keeps (R89). -/
def Obligations.BufferViewGivesSameBytes : Prop :=
  ∀ (cs buf : List Byte) (v : Nat), blockValue cs = some v → bufferView cs = some buf →
    (cs.length = 11 → 8 ≤ buf.length ∧ lastBytes 8 buf = stripBytes 8 v) ∧
    (cs.length = 10 → 7 ≤ buf.length ∧ lastBytes 7 buf = stripBytes 7 v)

/-! ## The hash -/

/-- The padding fills whole 136-byte blocks with `q` in 1..136 bytes: `0x81`, or `0x01`, zeros and `0x80` (R109). -/
def Obligations.PaddingFillsWholeBlocks : Prop :=
  ∀ m : List Byte,
    let q := 136 - m.length % 136
    1 ≤ q ∧ q ≤ 136 ∧ (padMessage m).length = m.length + q ∧ (padMessage m).length % 136 = 0 ∧
    (padMessage m).take m.length = m ∧
    (q = 1 → (padMessage m).drop m.length = [0x81]) ∧
    (q ≠ 1 → (padMessage m)[m.length]? = some 0x01 ∧ (padMessage m)[m.length + q - 1]? = some 0x80 ∧
      ∀ i, m.length < i → i < m.length + q - 1 → (padMessage m)[i]? = some 0x00)

/-- A 67-byte message is one padded block and one permutation, from the lanes that R114 lists. -/
def Obligations.HashOfSpendViewIsOnePermutation : Prop :=
  ∀ m : List Byte, m.length = 67 →
    ∃ a : Lanes, keccak256 m = squeeze (keccakF a) ∧
      (∀ i, i < 8 → a.toList[i]? = some (laneOfBytes (slice m (8 * i) 8))) ∧
      a.toList[8]? = some (laneOfBytes (slice m 64 3 ++ [0x01])) ∧
      (∀ i, 9 ≤ i → i < 16 → a.toList[i]? = some 0) ∧
      a.toList[16]? = some 0x8000000000000000 ∧
      (∀ i, 17 ≤ i → i < 25 → a.toList[i]? = some 0)

/-- Rho and pi move and rotate every lane as R111 writes it, and the tables of offsets and round constants are the ones their
generators give (R111, R112, R113). -/
def Obligations.KeccakTablesAndRhoPi : Prop :=
  (∀ (a : Lanes) (x y : Nat), x < 5 → y < 5 → laneAt (rhoPi a) y (2 * x + 3 * y) = rol (laneAt a x y) (rho x y)) ∧
  lfsrConstants 24 1 = roundConstants ∧
  (∀ e ∈ rhoWalk 24 0 1 0, rho e.1 e.2.1 = e.2.2) ∧ rho 0 0 = 0

/-- The steps of one round as R111 writes them, on lane number `x + 5y` (R106): rotation, theta, chi, iota, and the round and the
permutation they make up. Rho and pi are in `KeccakTablesAndRhoPi`. That `HASH` is this function is general knowledge of the spec
(log entry 6). -/
def Obligations.KeccakRoundSteps : Prop :=
  (∀ (a : Lanes) (x y : Nat), x < 5 → y < 5 → a.toList[x + 5 * y]? = some (laneAt a x y)) ∧
  (∀ (v : Lane) (n i : Nat), n < 64 → i < 64 → (rol v n).getLsbD ((i + n) % 64) = v.getLsbD i) ∧
  (∀ (a : Lanes) (x y : Nat), x < 5 → y < 5 →
    let c := fun u => laneAt a u 0 ^^^ laneAt a u 1 ^^^ laneAt a u 2 ^^^ laneAt a u 3 ^^^ laneAt a u 4
    laneAt (theta a) x y = laneAt a x y ^^^ (c ((x + 4) % 5) ^^^ rol (c ((x + 1) % 5)) 1)) ∧
  (∀ (b : Lanes) (x y : Nat), x < 5 → y < 5 →
    laneAt (chi b) x y = laneAt b x y ^^^ (~~~ (laneAt b ((x + 1) % 5) y) &&& laneAt b ((x + 2) % 5) y)) ∧
  (∀ (c : Lane) (a : Lanes), laneAt (iota c a) 0 0 = laneAt a 0 0 ^^^ c ∧
    ∀ x y : Nat, x < 5 → y < 5 → x + 5 * y ≠ 0 → laneAt (iota c a) x y = laneAt a x y) ∧
  (∀ (a : Lanes) (c : Lane), keccakRound a c = iota c (chi (rhoPi (theta a)))) ∧
  roundConstants.length = 24 ∧ (∀ a : Lanes, keccakF a = roundConstants.foldl keccakRound a)

/-- Absorbing and squeezing as R110 writes them: bytes and lanes correspond least significant byte first (R107); a 136-byte block
goes to lanes 0 to 16 by XOR and leaves the others; each block is followed by one permutation, from lanes all 0; and the output is
the bytes of lanes 0 to 3. That `HASH` is this function is general knowledge of the spec (log entry 6). -/
def Obligations.AbsorbAndSqueezeByteOrder : Prop :=
  (∀ (v : Lane) (i j : Nat), i < 8 → j < 8 → (laneByte v i).getLsbD j = v.getLsbD (8 * i + j)) ∧
  (∀ (bs : List Byte) (i : Nat), bs.length = 8 → i < 8 → bs[i]? = some (laneByte (laneOfBytes bs) i)) ∧
  (∀ (a : Lanes) (block : List Byte) (i : Nat), block.length = 136 →
    (i < 17 → (absorbBlock a block).toList[i]? =
      some (laneAt a (i % 5) (i / 5) ^^^ laneOfBytes (slice block (8 * i) 8))) ∧
    (17 ≤ i → (absorbBlock a block).toList[i]? = a.toList[i]?)) ∧
  (∀ i : Nat, i < 25 → (absorb []).toList[i]? = some 0) ∧
  (∀ blocks block : List Byte, blocks.length % 136 = 0 → block.length = 136 →
    absorb (blocks ++ block) = keccakF (absorbBlock (absorb blocks) block)) ∧
  (∀ (a : Lanes) (i j : Nat), i < 4 → j < 8 → (squeeze a).toList[8 * i + j]? = some (laneByte (laneAt a i 0) j)) ∧
  (∀ m : List Byte, keccak256 m = squeeze (absorb (padMessage m)))

/-! ## The parameters -/

/-- The parameters are an argument of the step that acts only where a RUN completes: with any `PREFIX_TABLE`, `HASH` and `OVERFLOW`
a completing RUN writes the result that they give, every other edge does the same with all of them, and the machine is the one
with the defaults (R7, R24; decisions D24 and D25). Which values the machine has is log entry 7. -/
def Obligations.ParametersActOnlyAtCompletion : Prop :=
  (∀ s : State, step s = stepWith params s) ∧
  (∀ (p p' : Params) (s : State), s.event ≠ .complete → stepWith p s = stepWith p' s) ∧
  (∀ (p : Params) (s : State), s.event = .complete →
    ∃ t : State, stepWith p s = .next t ∧ t.status = s.status.afterRun (result p s.abuf s.len s.kreg) ∧
      t.abuf = s.abuf ∧ t.len = s.len ∧ t.edges = s.edges.tail) ∧
  (∀ kind : NetworkKind, (params.prefixTable kind).toList = [0xe2, 0x8c, 0x01]) ∧
  params.hash = keccak256 ∧ params.overflow = .truncate
end

