-- ==== Sys2Proof/Laws/Bits.lean ====
section
/-! SUPPORT. Lengths and entries of the byte-sequence helpers. -/

namespace Sys2Proof.Machine

@[simp] theorem tabulate_toList {α : Type} (n : Nat) (f : Nat → α) :
    (tabulate n f).toList = (List.range n).map f := rfl

theorem tabulate_getElem? {α : Type} (n : Nat) (f : Nat → α) (i : Nat) (h : i < n) :
    (tabulate n f).toList[i]? = some (f i) := by
  simp [h]

theorem slice_length {α : Type} (xs : List α) (lo len : Nat) :
    (slice xs lo len).length = min len (xs.length - lo) := by
  simp [slice]

theorem slice_getElem? {α : Type} (xs : List α) (lo len i : Nat) :
    (slice xs lo len)[i]? = if i < len then xs[lo + i]? else none := by
  simp [slice, List.getElem?_take]

@[simp] theorem beBytes_length (n v : Nat) : (beBytes n v).length = n := by simp [beBytes]

theorem beBytes_getElem? (n v i : Nat) (h : i < n) :
    (beBytes n v)[i]? = some (BitVec.ofNat 8 (v >>> (8 * (n - 1 - i)))) := by
  simp [beBytes, h]

/-- An entry after a write: the written byte inside the written range, the old entry outside it. -/
theorem writeFrom_getElem? {α : Type} {n : Nat} (bs : List α) (v : Vector α n) (lo i : Nat) (h : lo + bs.length ≤ n) :
    (writeFrom v lo bs).toList[i]? =
      if lo ≤ i ∧ i < lo + bs.length then bs[i - lo]? else v.toList[i]? := by
  induction bs generalizing v lo with
  | nil =>
    have : ¬(lo ≤ i ∧ i < lo) := by omega
    simp [writeFrom, this]
  | cons b bs ih =>
    simp only [List.length_cons] at h
    rw [writeFrom, ih (v.setIfInBounds lo b) (lo + 1) (by omega)]
    simp only [Vector.toList_setIfInBounds, List.getElem?_set, Vector.length_toList, List.length_cons]
    rcases Nat.lt_trichotomy i lo with hi | rfl | hi
    · have h1 : ¬(lo + 1 ≤ i ∧ i < lo + 1 + bs.length) := by omega
      have h2 : ¬(lo ≤ i ∧ i < lo + (bs.length + 1)) := by omega
      have h3 : lo ≠ i := by omega
      rw [if_neg h1, if_neg h2, if_neg h3]
    · have h1 : i < n := by omega
      simp [h1]
    · by_cases hj : i < lo + 1 + bs.length
      · have h1 : lo + 1 ≤ i ∧ i < lo + 1 + bs.length := by omega
        have h2 : lo ≤ i ∧ i < lo + (bs.length + 1) := by omega
        have h3 : i - lo = (i - (lo + 1)) + 1 := by omega
        rw [if_pos h1, if_pos h2, h3, List.getElem?_cons_succ]
      · have h1 : ¬(lo + 1 ≤ i ∧ i < lo + 1 + bs.length) := by omega
        have h2 : ¬(lo ≤ i ∧ i < lo + (bs.length + 1)) := by omega
        have h3 : lo ≠ i := by omega
        rw [if_neg h1, if_neg h2, if_neg h3]

end Sys2Proof.Machine
end

