-- ==== Sys2Proof/Laws/Flags.lean ====
section
/-! SUPPORT. What every write of the `STATUS` register does to each field (R71, R72, R74, R126, R131). -/

namespace Sys2Proof.Machine

@[simp] theorem Status.clearResult_done (st : Status) : (st.clearResult).done = false := rfl
@[simp] theorem Status.clearResult_valid (st : Status) : (st.clearResult).valid = false := rfl
@[simp] theorem Status.clearResult_err (st : Status) : (st.clearResult).err = 0#3 := rfl
@[simp] theorem Status.clearResult_busy (st : Status) : (st.clearResult).busy = st.busy := rfl
@[simp] theorem Status.clearResult_cmderr (st : Status) : (st.clearResult).cmderr = st.cmderr := rfl

@[simp] theorem Status.startRun_done (st : Status) : (st.startRun).done = false := rfl
@[simp] theorem Status.startRun_valid (st : Status) : (st.startRun).valid = false := rfl
@[simp] theorem Status.startRun_err (st : Status) : (st.startRun).err = 0#3 := rfl
@[simp] theorem Status.startRun_busy (st : Status) : (st.startRun).busy = true := rfl
@[simp] theorem Status.startRun_cmderr (st : Status) : (st.startRun).cmderr = st.cmderr := rfl

@[simp] theorem Status.finishRun_done (st : Status) (v : Bool) (e : BitVec 3) : (st.finishRun v e).done = true := rfl
@[simp] theorem Status.finishRun_valid (st : Status) (v : Bool) (e : BitVec 3) : (st.finishRun v e).valid = v := rfl
@[simp] theorem Status.finishRun_err (st : Status) (v : Bool) (e : BitVec 3) : (st.finishRun v e).err = e := rfl
@[simp] theorem Status.finishRun_busy (st : Status) (v : Bool) (e : BitVec 3) : (st.finishRun v e).busy = false := rfl
@[simp] theorem Status.finishRun_cmderr (st : Status) (v : Bool) (e : BitVec 3) : (st.finishRun v e).cmderr = st.cmderr := rfl

@[simp] theorem Status.setCmderr_done (st : Status) : (st.setCmderr).done = st.done := rfl
@[simp] theorem Status.setCmderr_valid (st : Status) : (st.setCmderr).valid = st.valid := rfl
@[simp] theorem Status.setCmderr_err (st : Status) : (st.setCmderr).err = st.err := rfl
@[simp] theorem Status.setCmderr_busy (st : Status) : (st.setCmderr).busy = st.busy := rfl
@[simp] theorem Status.setCmderr_cmderr (st : Status) : (st.setCmderr).cmderr = true := rfl

@[simp] theorem Status.zero_done : Status.zero.done = false := rfl
@[simp] theorem Status.zero_valid : Status.zero.valid = false := rfl
@[simp] theorem Status.zero_err : Status.zero.err = 0#3 := rfl
@[simp] theorem Status.zero_busy : Status.zero.busy = false := rfl
@[simp] theorem Status.zero_cmderr : Status.zero.cmderr = false := rfl

@[simp] theorem Reject.code_inputType : Reject.inputType.code = 1#3 := rfl
@[simp] theorem Reject.code_length : Reject.length.code = 2#3 := rfl
@[simp] theorem Reject.code_alphabet : Reject.alphabet.code = 3#3 := rfl
@[simp] theorem Reject.code_pfxMismatch : Reject.pfxMismatch.code = 4#3 := rfl
@[simp] theorem Reject.code_checksum : Reject.checksum.code = 5#3 := rfl

end Sys2Proof.Machine
end

