-- ==== Sys2Proof/Laws/State.lean ====
section
/-! SUPPORT. One lemma per field per update of the state: what each update writes, and that it leaves the rest. -/

namespace Sys2Proof.Machine

/-- Two states with equal fields are equal. -/
theorem State.ext_fields {s t : State} (h1 : s.abuf = t.abuf) (h2 : s.len = t.len) (h3 : s.status = t.status)
    (h4 : s.kreg = t.kreg) (h5 : s.pay = t.pay) (h6 : s.dig = t.dig) (h7 : s.hashCore = t.hashCore)
    (h8 : s.acc = t.acc) (h9 : s.edges = t.edges) (h10 : s.freeIdx = t.freeIdx) : s = t := by
  cases s; cases t; simp_all

@[simp] theorem State.setAbuf_abuf (s : State) (v : Vector Byte 98) : (s.setAbuf v).abuf = v := rfl
@[simp] theorem State.setAbuf_len (s : State) (v : Vector Byte 98) : (s.setAbuf v).len = s.len := rfl
@[simp] theorem State.setAbuf_status (s : State) (v : Vector Byte 98) : (s.setAbuf v).status = s.status := rfl
@[simp] theorem State.setAbuf_kreg (s : State) (v : Vector Byte 98) : (s.setAbuf v).kreg = s.kreg := rfl
@[simp] theorem State.setAbuf_pay (s : State) (v : Vector Byte 98) : (s.setAbuf v).pay = s.pay := rfl
@[simp] theorem State.setAbuf_dig (s : State) (v : Vector Byte 98) : (s.setAbuf v).dig = s.dig := rfl
@[simp] theorem State.setAbuf_hashCore (s : State) (v : Vector Byte 98) : (s.setAbuf v).hashCore = s.hashCore := rfl
@[simp] theorem State.setAbuf_acc (s : State) (v : Vector Byte 98) : (s.setAbuf v).acc = s.acc := rfl
@[simp] theorem State.setAbuf_edges (s : State) (v : Vector Byte 98) : (s.setAbuf v).edges = s.edges := rfl
@[simp] theorem State.setAbuf_freeIdx (s : State) (v : Vector Byte 98) : (s.setAbuf v).freeIdx = s.freeIdx := rfl

@[simp] theorem State.setLen_abuf (s : State) (v : BitVec 7) : (s.setLen v).abuf = s.abuf := rfl
@[simp] theorem State.setLen_len (s : State) (v : BitVec 7) : (s.setLen v).len = v := rfl
@[simp] theorem State.setLen_status (s : State) (v : BitVec 7) : (s.setLen v).status = s.status := rfl
@[simp] theorem State.setLen_kreg (s : State) (v : BitVec 7) : (s.setLen v).kreg = s.kreg := rfl
@[simp] theorem State.setLen_pay (s : State) (v : BitVec 7) : (s.setLen v).pay = s.pay := rfl
@[simp] theorem State.setLen_dig (s : State) (v : BitVec 7) : (s.setLen v).dig = s.dig := rfl
@[simp] theorem State.setLen_hashCore (s : State) (v : BitVec 7) : (s.setLen v).hashCore = s.hashCore := rfl
@[simp] theorem State.setLen_acc (s : State) (v : BitVec 7) : (s.setLen v).acc = s.acc := rfl
@[simp] theorem State.setLen_edges (s : State) (v : BitVec 7) : (s.setLen v).edges = s.edges := rfl
@[simp] theorem State.setLen_freeIdx (s : State) (v : BitVec 7) : (s.setLen v).freeIdx = s.freeIdx := rfl

@[simp] theorem State.setStatus_abuf (s : State) (v : Status) : (s.setStatus v).abuf = s.abuf := rfl
@[simp] theorem State.setStatus_len (s : State) (v : Status) : (s.setStatus v).len = s.len := rfl
@[simp] theorem State.setStatus_status (s : State) (v : Status) : (s.setStatus v).status = v := rfl
@[simp] theorem State.setStatus_kreg (s : State) (v : Status) : (s.setStatus v).kreg = s.kreg := rfl
@[simp] theorem State.setStatus_pay (s : State) (v : Status) : (s.setStatus v).pay = s.pay := rfl
@[simp] theorem State.setStatus_dig (s : State) (v : Status) : (s.setStatus v).dig = s.dig := rfl
@[simp] theorem State.setStatus_hashCore (s : State) (v : Status) : (s.setStatus v).hashCore = s.hashCore := rfl
@[simp] theorem State.setStatus_acc (s : State) (v : Status) : (s.setStatus v).acc = s.acc := rfl
@[simp] theorem State.setStatus_edges (s : State) (v : Status) : (s.setStatus v).edges = s.edges := rfl
@[simp] theorem State.setStatus_freeIdx (s : State) (v : Status) : (s.setStatus v).freeIdx = s.freeIdx := rfl

@[simp] theorem State.setKreg_abuf (s : State) (v : Byte) : (s.setKreg v).abuf = s.abuf := rfl
@[simp] theorem State.setKreg_len (s : State) (v : Byte) : (s.setKreg v).len = s.len := rfl
@[simp] theorem State.setKreg_status (s : State) (v : Byte) : (s.setKreg v).status = s.status := rfl
@[simp] theorem State.setKreg_kreg (s : State) (v : Byte) : (s.setKreg v).kreg = v := rfl
@[simp] theorem State.setKreg_pay (s : State) (v : Byte) : (s.setKreg v).pay = s.pay := rfl
@[simp] theorem State.setKreg_dig (s : State) (v : Byte) : (s.setKreg v).dig = s.dig := rfl
@[simp] theorem State.setKreg_hashCore (s : State) (v : Byte) : (s.setKreg v).hashCore = s.hashCore := rfl
@[simp] theorem State.setKreg_acc (s : State) (v : Byte) : (s.setKreg v).acc = s.acc := rfl
@[simp] theorem State.setKreg_edges (s : State) (v : Byte) : (s.setKreg v).edges = s.edges := rfl
@[simp] theorem State.setKreg_freeIdx (s : State) (v : Byte) : (s.setKreg v).freeIdx = s.freeIdx := rfl

@[simp] theorem State.setPay_abuf (s : State) (v : Vector Byte 71) : (s.setPay v).abuf = s.abuf := rfl
@[simp] theorem State.setPay_len (s : State) (v : Vector Byte 71) : (s.setPay v).len = s.len := rfl
@[simp] theorem State.setPay_status (s : State) (v : Vector Byte 71) : (s.setPay v).status = s.status := rfl
@[simp] theorem State.setPay_kreg (s : State) (v : Vector Byte 71) : (s.setPay v).kreg = s.kreg := rfl
@[simp] theorem State.setPay_pay (s : State) (v : Vector Byte 71) : (s.setPay v).pay = v := rfl
@[simp] theorem State.setPay_dig (s : State) (v : Vector Byte 71) : (s.setPay v).dig = s.dig := rfl
@[simp] theorem State.setPay_hashCore (s : State) (v : Vector Byte 71) : (s.setPay v).hashCore = s.hashCore := rfl
@[simp] theorem State.setPay_acc (s : State) (v : Vector Byte 71) : (s.setPay v).acc = s.acc := rfl
@[simp] theorem State.setPay_edges (s : State) (v : Vector Byte 71) : (s.setPay v).edges = s.edges := rfl
@[simp] theorem State.setPay_freeIdx (s : State) (v : Vector Byte 71) : (s.setPay v).freeIdx = s.freeIdx := rfl

@[simp] theorem State.setDig_abuf (s : State) (v : Vector Byte 32) : (s.setDig v).abuf = s.abuf := rfl
@[simp] theorem State.setDig_len (s : State) (v : Vector Byte 32) : (s.setDig v).len = s.len := rfl
@[simp] theorem State.setDig_status (s : State) (v : Vector Byte 32) : (s.setDig v).status = s.status := rfl
@[simp] theorem State.setDig_kreg (s : State) (v : Vector Byte 32) : (s.setDig v).kreg = s.kreg := rfl
@[simp] theorem State.setDig_pay (s : State) (v : Vector Byte 32) : (s.setDig v).pay = s.pay := rfl
@[simp] theorem State.setDig_dig (s : State) (v : Vector Byte 32) : (s.setDig v).dig = v := rfl
@[simp] theorem State.setDig_hashCore (s : State) (v : Vector Byte 32) : (s.setDig v).hashCore = s.hashCore := rfl
@[simp] theorem State.setDig_acc (s : State) (v : Vector Byte 32) : (s.setDig v).acc = s.acc := rfl
@[simp] theorem State.setDig_edges (s : State) (v : Vector Byte 32) : (s.setDig v).edges = s.edges := rfl
@[simp] theorem State.setDig_freeIdx (s : State) (v : Vector Byte 32) : (s.setDig v).freeIdx = s.freeIdx := rfl

@[simp] theorem State.setHashCore_abuf (s : State) (v : Vector Lane 25) : (s.setHashCore v).abuf = s.abuf := rfl
@[simp] theorem State.setHashCore_len (s : State) (v : Vector Lane 25) : (s.setHashCore v).len = s.len := rfl
@[simp] theorem State.setHashCore_status (s : State) (v : Vector Lane 25) : (s.setHashCore v).status = s.status := rfl
@[simp] theorem State.setHashCore_kreg (s : State) (v : Vector Lane 25) : (s.setHashCore v).kreg = s.kreg := rfl
@[simp] theorem State.setHashCore_pay (s : State) (v : Vector Lane 25) : (s.setHashCore v).pay = s.pay := rfl
@[simp] theorem State.setHashCore_dig (s : State) (v : Vector Lane 25) : (s.setHashCore v).dig = s.dig := rfl
@[simp] theorem State.setHashCore_hashCore (s : State) (v : Vector Lane 25) : (s.setHashCore v).hashCore = v := rfl
@[simp] theorem State.setHashCore_acc (s : State) (v : Vector Lane 25) : (s.setHashCore v).acc = s.acc := rfl
@[simp] theorem State.setHashCore_edges (s : State) (v : Vector Lane 25) : (s.setHashCore v).edges = s.edges := rfl
@[simp] theorem State.setHashCore_freeIdx (s : State) (v : Vector Lane 25) : (s.setHashCore v).freeIdx = s.freeIdx := rfl

@[simp] theorem State.setAcc_abuf (s : State) (v : BitVec 65) : (s.setAcc v).abuf = s.abuf := rfl
@[simp] theorem State.setAcc_len (s : State) (v : BitVec 65) : (s.setAcc v).len = s.len := rfl
@[simp] theorem State.setAcc_status (s : State) (v : BitVec 65) : (s.setAcc v).status = s.status := rfl
@[simp] theorem State.setAcc_kreg (s : State) (v : BitVec 65) : (s.setAcc v).kreg = s.kreg := rfl
@[simp] theorem State.setAcc_pay (s : State) (v : BitVec 65) : (s.setAcc v).pay = s.pay := rfl
@[simp] theorem State.setAcc_dig (s : State) (v : BitVec 65) : (s.setAcc v).dig = s.dig := rfl
@[simp] theorem State.setAcc_hashCore (s : State) (v : BitVec 65) : (s.setAcc v).hashCore = s.hashCore := rfl
@[simp] theorem State.setAcc_acc (s : State) (v : BitVec 65) : (s.setAcc v).acc = v := rfl
@[simp] theorem State.setAcc_edges (s : State) (v : BitVec 65) : (s.setAcc v).edges = s.edges := rfl
@[simp] theorem State.setAcc_freeIdx (s : State) (v : BitVec 65) : (s.setAcc v).freeIdx = s.freeIdx := rfl

@[simp] theorem State.setEdges_abuf (s : State) (v : List Edge) : (s.setEdges v).abuf = s.abuf := rfl
@[simp] theorem State.setEdges_len (s : State) (v : List Edge) : (s.setEdges v).len = s.len := rfl
@[simp] theorem State.setEdges_status (s : State) (v : List Edge) : (s.setEdges v).status = s.status := rfl
@[simp] theorem State.setEdges_kreg (s : State) (v : List Edge) : (s.setEdges v).kreg = s.kreg := rfl
@[simp] theorem State.setEdges_pay (s : State) (v : List Edge) : (s.setEdges v).pay = s.pay := rfl
@[simp] theorem State.setEdges_dig (s : State) (v : List Edge) : (s.setEdges v).dig = s.dig := rfl
@[simp] theorem State.setEdges_hashCore (s : State) (v : List Edge) : (s.setEdges v).hashCore = s.hashCore := rfl
@[simp] theorem State.setEdges_acc (s : State) (v : List Edge) : (s.setEdges v).acc = s.acc := rfl
@[simp] theorem State.setEdges_edges (s : State) (v : List Edge) : (s.setEdges v).edges = v := rfl
@[simp] theorem State.setEdges_freeIdx (s : State) (v : List Edge) : (s.setEdges v).freeIdx = s.freeIdx := rfl

@[simp] theorem State.setFreeIdx_abuf (s : State) (v : Nat) : (s.setFreeIdx v).abuf = s.abuf := rfl
@[simp] theorem State.setFreeIdx_len (s : State) (v : Nat) : (s.setFreeIdx v).len = s.len := rfl
@[simp] theorem State.setFreeIdx_status (s : State) (v : Nat) : (s.setFreeIdx v).status = s.status := rfl
@[simp] theorem State.setFreeIdx_kreg (s : State) (v : Nat) : (s.setFreeIdx v).kreg = s.kreg := rfl
@[simp] theorem State.setFreeIdx_pay (s : State) (v : Nat) : (s.setFreeIdx v).pay = s.pay := rfl
@[simp] theorem State.setFreeIdx_dig (s : State) (v : Nat) : (s.setFreeIdx v).dig = s.dig := rfl
@[simp] theorem State.setFreeIdx_hashCore (s : State) (v : Nat) : (s.setFreeIdx v).hashCore = s.hashCore := rfl
@[simp] theorem State.setFreeIdx_acc (s : State) (v : Nat) : (s.setFreeIdx v).acc = s.acc := rfl
@[simp] theorem State.setFreeIdx_edges (s : State) (v : Nat) : (s.setFreeIdx v).edges = s.edges := rfl
@[simp] theorem State.setFreeIdx_freeIdx (s : State) (v : Nat) : (s.setFreeIdx v).freeIdx = v := rfl

end Sys2Proof.Machine
end

