-- ==== Sys2Proof/Laws/Ops.lean ====
section
/-! SUPPORT. What each shared operation does, field by field; later proofs cite these and do not unfold an operation. -/

namespace Sys2Proof.Machine

@[simp] theorem State.advanceLen_abuf (s : State) : (s.advanceLen).abuf = s.abuf := rfl
@[simp] theorem State.advanceLen_len (s : State) : (s.advanceLen).len = lenSucc s.len := rfl
@[simp] theorem State.advanceLen_status (s : State) : (s.advanceLen).status = s.status := rfl
@[simp] theorem State.advanceLen_kreg (s : State) : (s.advanceLen).kreg = s.kreg := rfl
@[simp] theorem State.advanceLen_pay (s : State) : (s.advanceLen).pay = s.pay := rfl
@[simp] theorem State.advanceLen_dig (s : State) : (s.advanceLen).dig = s.dig := rfl
@[simp] theorem State.advanceLen_hashCore (s : State) : (s.advanceLen).hashCore = s.hashCore := rfl
@[simp] theorem State.advanceLen_acc (s : State) : (s.advanceLen).acc = s.acc := rfl
@[simp] theorem State.advanceLen_edges (s : State) : (s.advanceLen).edges = s.edges := rfl
@[simp] theorem State.advanceLen_freeIdx (s : State) : (s.advanceLen).freeIdx = s.freeIdx := rfl

@[simp] theorem State.zeroLen_abuf (s : State) : (s.zeroLen).abuf = s.abuf := rfl
@[simp] theorem State.zeroLen_len (s : State) : (s.zeroLen).len = 0#7 := rfl
@[simp] theorem State.zeroLen_status (s : State) : (s.zeroLen).status = s.status := rfl
@[simp] theorem State.zeroLen_kreg (s : State) : (s.zeroLen).kreg = s.kreg := rfl
@[simp] theorem State.zeroLen_pay (s : State) : (s.zeroLen).pay = s.pay := rfl
@[simp] theorem State.zeroLen_dig (s : State) : (s.zeroLen).dig = s.dig := rfl
@[simp] theorem State.zeroLen_hashCore (s : State) : (s.zeroLen).hashCore = s.hashCore := rfl
@[simp] theorem State.zeroLen_acc (s : State) : (s.zeroLen).acc = s.acc := rfl
@[simp] theorem State.zeroLen_edges (s : State) : (s.zeroLen).edges = s.edges := rfl
@[simp] theorem State.zeroLen_freeIdx (s : State) : (s.zeroLen).freeIdx = s.freeIdx := rfl

@[simp] theorem State.clearResult_abuf (s : State) : (s.clearResult).abuf = s.abuf := rfl
@[simp] theorem State.clearResult_len (s : State) : (s.clearResult).len = s.len := rfl
@[simp] theorem State.clearResult_status (s : State) : (s.clearResult).status = s.status.clearResult := rfl
@[simp] theorem State.clearResult_kreg (s : State) : (s.clearResult).kreg = s.kreg := rfl
@[simp] theorem State.clearResult_pay (s : State) : (s.clearResult).pay = s.pay := rfl
@[simp] theorem State.clearResult_dig (s : State) : (s.clearResult).dig = s.dig := rfl
@[simp] theorem State.clearResult_hashCore (s : State) : (s.clearResult).hashCore = s.hashCore := rfl
@[simp] theorem State.clearResult_acc (s : State) : (s.clearResult).acc = s.acc := rfl
@[simp] theorem State.clearResult_edges (s : State) : (s.clearResult).edges = s.edges := rfl
@[simp] theorem State.clearResult_freeIdx (s : State) : (s.clearResult).freeIdx = s.freeIdx := rfl

@[simp] theorem State.startRun_abuf (s : State) (k : Byte) : (s.startRun k).abuf = s.abuf := rfl
@[simp] theorem State.startRun_len (s : State) (k : Byte) : (s.startRun k).len = s.len := rfl
@[simp] theorem State.startRun_status (s : State) (k : Byte) : (s.startRun k).status = s.status.startRun := rfl
@[simp] theorem State.startRun_kreg (s : State) (k : Byte) : (s.startRun k).kreg = k := rfl
@[simp] theorem State.startRun_pay (s : State) (k : Byte) : (s.startRun k).pay = s.pay := rfl
@[simp] theorem State.startRun_dig (s : State) (k : Byte) : (s.startRun k).dig = s.dig := rfl
@[simp] theorem State.startRun_hashCore (s : State) (k : Byte) : (s.startRun k).hashCore = s.hashCore := rfl
@[simp] theorem State.startRun_acc (s : State) (k : Byte) : (s.startRun k).acc = s.acc := rfl
@[simp] theorem State.startRun_edges (s : State) (k : Byte) : (s.startRun k).edges = s.edges := rfl
@[simp] theorem State.startRun_freeIdx (s : State) (k : Byte) : (s.startRun k).freeIdx = s.freeIdx := rfl

@[simp] theorem State.raiseReject_abuf (s : State) (r : Reject) : (s.raiseReject r).abuf = s.abuf := rfl
@[simp] theorem State.raiseReject_len (s : State) (r : Reject) : (s.raiseReject r).len = s.len := rfl
@[simp] theorem State.raiseReject_status (s : State) (r : Reject) : (s.raiseReject r).status = s.status.finishRun false r.code := rfl
@[simp] theorem State.raiseReject_kreg (s : State) (r : Reject) : (s.raiseReject r).kreg = s.kreg := rfl
@[simp] theorem State.raiseReject_pay (s : State) (r : Reject) : (s.raiseReject r).pay = s.pay := rfl
@[simp] theorem State.raiseReject_dig (s : State) (r : Reject) : (s.raiseReject r).dig = s.dig := rfl
@[simp] theorem State.raiseReject_hashCore (s : State) (r : Reject) : (s.raiseReject r).hashCore = s.hashCore := rfl
@[simp] theorem State.raiseReject_acc (s : State) (r : Reject) : (s.raiseReject r).acc = s.acc := rfl
@[simp] theorem State.raiseReject_edges (s : State) (r : Reject) : (s.raiseReject r).edges = s.edges := rfl
@[simp] theorem State.raiseReject_freeIdx (s : State) (r : Reject) : (s.raiseReject r).freeIdx = s.freeIdx := rfl

@[simp] theorem State.acceptResult_abuf (s : State) : (s.acceptResult).abuf = s.abuf := rfl
@[simp] theorem State.acceptResult_len (s : State) : (s.acceptResult).len = s.len := rfl
@[simp] theorem State.acceptResult_status (s : State) : (s.acceptResult).status = s.status.finishRun true 0#3 := rfl
@[simp] theorem State.acceptResult_kreg (s : State) : (s.acceptResult).kreg = s.kreg := rfl
@[simp] theorem State.acceptResult_pay (s : State) : (s.acceptResult).pay = s.pay := rfl
@[simp] theorem State.acceptResult_dig (s : State) : (s.acceptResult).dig = s.dig := rfl
@[simp] theorem State.acceptResult_hashCore (s : State) : (s.acceptResult).hashCore = s.hashCore := rfl
@[simp] theorem State.acceptResult_acc (s : State) : (s.acceptResult).acc = s.acc := rfl
@[simp] theorem State.acceptResult_edges (s : State) : (s.acceptResult).edges = s.edges := rfl
@[simp] theorem State.acceptResult_freeIdx (s : State) : (s.acceptResult).freeIdx = s.freeIdx := rfl

@[simp] theorem State.acceptReserved_abuf (s : State) : (s.acceptReserved).abuf = s.abuf := rfl
@[simp] theorem State.acceptReserved_len (s : State) : (s.acceptReserved).len = s.len := rfl
@[simp] theorem State.acceptReserved_status (s : State) : (s.acceptReserved).status = s.status.setCmderr := rfl
@[simp] theorem State.acceptReserved_kreg (s : State) : (s.acceptReserved).kreg = s.kreg := rfl
@[simp] theorem State.acceptReserved_pay (s : State) : (s.acceptReserved).pay = s.pay := rfl
@[simp] theorem State.acceptReserved_dig (s : State) : (s.acceptReserved).dig = s.dig := rfl
@[simp] theorem State.acceptReserved_hashCore (s : State) : (s.acceptReserved).hashCore = s.hashCore := rfl
@[simp] theorem State.acceptReserved_acc (s : State) : (s.acceptReserved).acc = s.acc := rfl
@[simp] theorem State.acceptReserved_edges (s : State) : (s.acceptReserved).edges = s.edges := rfl
@[simp] theorem State.acceptReserved_freeIdx (s : State) : (s.acceptReserved).freeIdx = s.freeIdx := rfl

@[simp] theorem State.freeTransients_abuf (s : State) : (s.freeTransients).abuf = s.abuf := rfl
@[simp] theorem State.freeTransients_len (s : State) : (s.freeTransients).len = s.len := rfl
@[simp] theorem State.freeTransients_status (s : State) : (s.freeTransients).status = s.status := rfl
@[simp] theorem State.freeTransients_kreg (s : State) : (s.freeTransients).kreg = Config.freeKreg s.freeIdx := rfl
@[simp] theorem State.freeTransients_pay (s : State) : (s.freeTransients).pay = tabulate 71 (Config.freePay s.freeIdx) := rfl
@[simp] theorem State.freeTransients_dig (s : State) : (s.freeTransients).dig = tabulate 32 (Config.freeDig s.freeIdx) := rfl
@[simp] theorem State.freeTransients_hashCore (s : State) : (s.freeTransients).hashCore = tabulate 25 (Config.freeHashCore s.freeIdx) := rfl
@[simp] theorem State.freeTransients_acc (s : State) : (s.freeTransients).acc = Config.freeAcc s.freeIdx := rfl
@[simp] theorem State.freeTransients_edges (s : State) : (s.freeTransients).edges = s.edges := rfl
@[simp] theorem State.freeTransients_freeIdx (s : State) : (s.freeTransients).freeIdx = s.freeIdx + 1 := rfl

@[simp] theorem State.resetBlock_abuf (s : State) : (s.resetBlock).abuf = tabulate 98 (Config.freeAbuf s.freeIdx) := rfl
@[simp] theorem State.resetBlock_len (s : State) : (s.resetBlock).len = 0#7 := rfl
@[simp] theorem State.resetBlock_status (s : State) : (s.resetBlock).status = Status.zero := rfl
@[simp] theorem State.resetBlock_kreg (s : State) : (s.resetBlock).kreg = Config.freeKreg s.freeIdx := rfl
@[simp] theorem State.resetBlock_pay (s : State) : (s.resetBlock).pay = tabulate 71 (Config.freePay s.freeIdx) := rfl
@[simp] theorem State.resetBlock_dig (s : State) : (s.resetBlock).dig = tabulate 32 (Config.freeDig s.freeIdx) := rfl
@[simp] theorem State.resetBlock_hashCore (s : State) : (s.resetBlock).hashCore = tabulate 25 (Config.freeHashCore s.freeIdx) := rfl
@[simp] theorem State.resetBlock_acc (s : State) : (s.resetBlock).acc = Config.freeAcc s.freeIdx := rfl
@[simp] theorem State.resetBlock_edges (s : State) : (s.resetBlock).edges = s.edges := rfl
@[simp] theorem State.resetBlock_freeIdx (s : State) : (s.resetBlock).freeIdx = s.freeIdx + 1 := rfl

@[simp] theorem State.storeChar_len (s : State) (c : Byte) : (s.storeChar c).len = s.len := by
  unfold State.storeChar; split <;> rfl
@[simp] theorem State.storeChar_status (s : State) (c : Byte) : (s.storeChar c).status = s.status := by
  unfold State.storeChar; split <;> rfl
@[simp] theorem State.storeChar_kreg (s : State) (c : Byte) : (s.storeChar c).kreg = s.kreg := by
  unfold State.storeChar; split <;> rfl
@[simp] theorem State.storeChar_pay (s : State) (c : Byte) : (s.storeChar c).pay = s.pay := by
  unfold State.storeChar; split <;> rfl
@[simp] theorem State.storeChar_dig (s : State) (c : Byte) : (s.storeChar c).dig = s.dig := by
  unfold State.storeChar; split <;> rfl
@[simp] theorem State.storeChar_hashCore (s : State) (c : Byte) : (s.storeChar c).hashCore = s.hashCore := by
  unfold State.storeChar; split <;> rfl
@[simp] theorem State.storeChar_acc (s : State) (c : Byte) : (s.storeChar c).acc = s.acc := by
  unfold State.storeChar; split <;> rfl
@[simp] theorem State.storeChar_edges (s : State) (c : Byte) : (s.storeChar c).edges = s.edges := by
  unfold State.storeChar; split <;> rfl
@[simp] theorem State.storeChar_freeIdx (s : State) (c : Byte) : (s.storeChar c).freeIdx = s.freeIdx := by
  unfold State.storeChar; split <;> rfl

/-- The store of PUSH: the entry at `LEN` if there is one, and no other (R72). -/
theorem State.storeChar_abuf (s : State) (c : Byte) :
    (s.storeChar c).abuf = if s.len.toNat < 98 then s.abuf.setIfInBounds s.len.toNat c else s.abuf := by
  unfold State.storeChar Config.addrLen; split <;> rfl

/-- One entry of `ABUF` after the store of PUSH (R72, R73). -/
theorem State.storeChar_getElem? (s : State) (c : Byte) (i : Nat) :
    (s.storeChar c).abuf.toList[i]? =
      if i = s.len.toNat ∧ s.len.toNat < 98 then some c else s.abuf.toList[i]? := by
  rw [State.storeChar_abuf]
  by_cases h : s.len.toNat < 98
  · simp only [h, if_true, and_true, Vector.toList_setIfInBounds, List.getElem?_set, Vector.length_toList]
    by_cases hi : s.len.toNat = i
    · simp [hi]
    · simp [hi, Ne.symm hi]
  · simp [h]

/-- The saturating increment, as a number (R12). -/
@[simp] theorem lenSucc_toNat (n : BitVec 7) : (lenSucc n).toNat = min (n.toNat + 1) 127 := by
  have h := n.isLt
  simp only [lenSucc, Config.lenMax, BitVec.toNat_ofNat]
  omega

end Sys2Proof.Machine
end

