-- ==== Sys2Proof/Laws/BlockDecoder.lean ====
section
/-! SUPPORT. What the block decoder's functions and micro-operations can do, once each. -/

namespace Sys2Proof.Machine

@[simp] theorem digitsOf_nil : digitsOf [] = some [] := rfl

/-- A non-empty block has digits exactly when its first character and the rest have (R82). -/
theorem digitsOf_cons_eq_some {c : Byte} {cs : List Byte} {ds : List Nat} :
    digitsOf (c :: cs) = some ds ↔ ∃ d ds', digit c = some d ∧ digitsOf cs = some ds' ∧ ds = d :: ds' := by
  simp only [digitsOf]
  cases digit c <;> cases digitsOf cs <;> simp [eq_comm]

/-- A block has one digit for each character. -/
theorem digitsOf_length {cs : List Byte} {ds : List Nat} (h : digitsOf cs = some ds) : ds.length = cs.length := by
  induction cs generalizing ds with
  | nil => cases h; rfl
  | cons c cs ih =>
    obtain ⟨d, ds', -, hds, rfl⟩ := digitsOf_cons_eq_some.1 h
    simp [ih hds]

/-- A digit is below 58 (R59, R88 (e)). -/
theorem digit_lt {c : Byte} {d : Nat} (h : digit c = some d) : d < 58 := by
  revert h
  unfold digit
  simp only
  split_ifs <;> (intro h; first | (cases h; omega) | cases h)

/-- Every digit of a block is below 58 (R88 (e)). -/
theorem digitsOf_lt {cs : List Byte} {ds : List Nat} (h : digitsOf cs = some ds) : ∀ d ∈ ds, d < 58 := by
  induction cs generalizing ds with
  | nil => cases h; simp
  | cons c cs ih =>
    obtain ⟨d, ds', hd, hds, rfl⟩ := digitsOf_cons_eq_some.1 h
    intro x hx
    rcases List.mem_cons.1 hx with rfl | hx
    · exact digit_lt hd
    · exact ih hds x hx

@[simp] theorem stripBytes_length (n v : Nat) : (stripBytes n v).length = n := by simp [stripBytes]

@[simp] theorem runMicros_nil (s : State) : runMicros [] s = .ok s := rfl

/-- The first micro-operation of a sequence either goes on or ends it (R90). -/
theorem runMicros_cons (m : MicroOp) (ms : List MicroOp) (s : State) :
    runMicros (m :: ms) s = match m s with | .ok s' => runMicros ms s' | .error r => .error r := rfl

/-- All a block decode can do: go on with the accumulator and the block's bytes of `PAY` written, or raise ALPHABET
(R82, R83, R86, R87). -/
theorem decodeTo_cases (p : Params) (first len off n : Nat) (s : State) :
    (∃ v, blockValue (slice s.abuf.toList first len) = some v ∧ valueFits p n v = true ∧
      decodeTo p first len off n s =
        .ok ((s.setAcc (BitVec.ofNat 65 v)).setPay
          (writeFrom s.pay off (stripBytes n (BitVec.ofNat 65 v).toNat)))) ∨
    ((blockValue (slice s.abuf.toList first len) = none ∨
      ∃ v, blockValue (slice s.abuf.toList first len) = some v ∧ valueFits p n v = false) ∧
      decodeTo p first len off n s = .error .alphabet) := by
  unfold decodeTo
  cases h : blockValue (slice s.abuf.toList first len) with
  | none => exact .inr ⟨.inl rfl, rfl⟩
  | some v =>
    cases hf : valueFits p n v with
    | true => exact .inl ⟨v, rfl, hf, by simp [hf]⟩
    | false => exact .inr ⟨.inr ⟨v, rfl, hf⟩, by simp [hf]⟩

@[simp] theorem valueFits_truncate (p : Params) (n v : Nat) (h : p.overflow = .truncate) : valueFits p n v = true := by
  simp [valueFits, h]

/-- A value below `2^65`, cut to at most 64 bits by the accumulator, strips to the same bytes (R27, R88). -/
theorem stripBytes_acc (n v : Nat) (h : n ≤ 8) : stripBytes n (BitVec.ofNat 65 v).toNat = stripBytes n v := by
  have hd : 2 ^ (8 * n) ∣ 2 ^ 65 := Nat.pow_dvd_pow 2 (by omega)
  simp only [stripBytes, BitVec.toNat_ofNat, Nat.mod_mod_of_dvd v hd]

end Sys2Proof.Machine
end

