-- ==== Sys2Proof/Laws/Decode.lean ====
section
/-! SUPPORT. The fields of a command word as numbers, and that packing and cutting a word undo each other (R50). -/

namespace Sys2Proof

theorem CmdWord.op_toNat (w : CmdWord) : w.op.toNat = w.toNat / 4096 := by
  have := w.isLt
  simp only [CmdWord.op, BitVec.extractLsb'_toNat, Nat.shiftRight_eq_div_pow]
  omega

theorem CmdWord.rsv_toNat (w : CmdWord) : w.rsv.toNat = w.toNat / 256 % 16 := by
  simp only [CmdWord.rsv, BitVec.extractLsb'_toNat, Nat.shiftRight_eq_div_pow]

theorem CmdWord.arg_toNat (w : CmdWord) : w.arg.toNat = w.toNat % 256 := by
  simp only [CmdWord.arg, BitVec.extractLsb'_toNat, Nat.shiftRight_eq_div_pow]
  omega

theorem packWord_toNat (a b : BitVec 4) (c : Byte) :
    (packWord a b c).toNat = a.toNat * 4096 + b.toNat * 256 + c.toNat := by
  have hb := b.isLt
  have hc := c.isLt
  simp only [packWord, BitVec.toNat_append]
  rw [← Nat.shiftLeft_add_eq_or_of_lt (by omega), ← Nat.shiftLeft_add_eq_or_of_lt (by omega)]
  simp only [Nat.shiftLeft_eq]
  omega

@[simp] theorem packWord_op (a b : BitVec 4) (c : Byte) : CmdWord.op (packWord a b c) = a := by
  have hb := b.isLt
  have hc := c.isLt
  apply BitVec.eq_of_toNat_eq
  rw [CmdWord.op_toNat, packWord_toNat]
  omega

@[simp] theorem packWord_rsv (a b : BitVec 4) (c : Byte) : CmdWord.rsv (packWord a b c) = b := by
  have hb := b.isLt
  have hc := c.isLt
  apply BitVec.eq_of_toNat_eq
  rw [CmdWord.rsv_toNat, packWord_toNat]
  omega

@[simp] theorem packWord_arg (a b : BitVec 4) (c : Byte) : CmdWord.arg (packWord a b c) = c := by
  have hc := c.isLt
  apply BitVec.eq_of_toNat_eq
  rw [CmdWord.arg_toNat, packWord_toNat]
  omega

/-- A word is its three fields (R50). -/
theorem packWord_fields (w : CmdWord) : packWord w.op w.rsv w.arg = w := by
  have := w.isLt
  apply BitVec.eq_of_toNat_eq
  rw [packWord_toNat, CmdWord.op_toNat, CmdWord.rsv_toNat, CmdWord.arg_toNat]
  omega

end Sys2Proof
end

