-- ==== Sys2Proof/Laws/Keccak.lean ====
section
/-! SUPPORT. Reading a lane of the arrays that the steps of the permutation build. -/

namespace Sys2Proof.Machine

/-- The lane at `x`, `y` of an array built lane by lane (R106). -/
theorem laneAt_lanesOf (f : Nat → Nat → Lane) (x y : Nat) (hx : x < 5) (hy : y < 5) :
    laneAt (lanesOf f) x y = f x y := by
  interval_cases x <;> interval_cases y <;> rfl

/-- The entry of a row of five lanes built entry by entry, the index modulo 5 (R106). -/
@[simp] theorem rowAt_tabulate (f : Nat → Lane) (x : Nat) : rowAt (tabulate 5 f) x = f (x % 5) := by
  unfold rowAt
  have h : x % 5 < 5 := Nat.mod_lt _ (by decide)
  generalize x % 5 = k at h
  interval_cases k <;> rfl

/-- Lane indices are taken modulo 5 (R106). -/
@[simp] theorem laneAt_mod_left (a : Lanes) (x y : Nat) : laneAt a (x % 5) y = laneAt a x y := by simp [laneAt]
@[simp] theorem laneAt_mod_right (a : Lanes) (x y : Nat) : laneAt a x (y % 5) = laneAt a x y := by simp [laneAt]

end Sys2Proof.Machine
end

