-- ==== Sys2Proof/Laws/PerInstr.lean ====
section
/-! SUPPORT. Statements about every instruction as syntax, one lemma per constructor. -/

namespace Sys2Proof.Laws.EncodesToCommandWord

/-- The encoding of a well-formed instruction is a command word of the opcode map (R51). -/
def Statement (i : Instr) : Prop := i.wf = true → CmdWord.wf (encode i) = true

theorem nop : Statement .nop := by unfold Statement; decide
theorem clr : Statement .clr := by unfold Statement; decide
theorem push (c : Byte) : Statement (.push c) := by
  intro _; revert c; decide +kernel
theorem run (k : Byte) : Statement (.run k) := by
  intro _; revert k; decide +kernel

end Sys2Proof.Laws.EncodesToCommandWord
end

