-- ==== Sys2Proof/Laws/Verifier.lean ====
section
/-! SUPPORT. What the micro-operations of RUN leave alone, and what a completed RUN does to each register. -/

namespace Sys2Proof.Machine

/-- What no micro-operation of RUN touches: they write `PAY`, `DIG` and the accumulator only (R102). -/
def SameBesideBuffers (s t : State) : Prop :=
  t.abuf = s.abuf ∧ t.len = s.len ∧ t.status = s.status ∧ t.kreg = s.kreg ∧ t.hashCore = s.hashCore ∧
    t.edges = s.edges ∧ t.freeIdx = s.freeIdx

theorem SameBesideBuffers.refl (s : State) : SameBesideBuffers s s := ⟨rfl, rfl, rfl, rfl, rfl, rfl, rfl⟩

theorem SameBesideBuffers.trans {s t u : State} (h : SameBesideBuffers s t) (h' : SameBesideBuffers t u) :
    SameBesideBuffers s u := by
  obtain ⟨a, b, c, d, e, f, g⟩ := h
  obtain ⟨a', b', c', d', e', f', g'⟩ := h'
  exact ⟨a'.trans a, b'.trans b, c'.trans c, d'.trans d, e'.trans e, f'.trans f, g'.trans g⟩

/-- A micro-operation that goes on leaves everything beside `PAY`, `DIG` and the accumulator. -/
def MicroOp.Frames (m : MicroOp) : Prop := ∀ s t, m s = .ok t → SameBesideBuffers s t

theorem decodeTo_frames (p : Params) (first len off n : Nat) : MicroOp.Frames (decodeTo p first len off n) := by
  intro s t h
  rcases decodeTo_cases p first len off n s with ⟨v, -, -, hv⟩ | ⟨-, hv⟩
  · rw [hv] at h
    cases h
    exact ⟨rfl, rfl, rfl, rfl, rfl, rfl, rfl⟩
  · rw [hv] at h
    cases h

theorem runMicros_frames (ms : List MicroOp) (hf : ∀ m ∈ ms, MicroOp.Frames m) : MicroOp.Frames (runMicros ms) := by
  induction ms with
  | nil => intro s t h; cases h; exact .refl s
  | cons m ms ih =>
    intro s t h
    rw [runMicros_cons] at h
    cases hm : m s with
    | error r => rw [hm] at h; cases h
    | ok u =>
      rw [hm] at h
      exact (hf m (by simp) s u hm).trans (ih (fun m' hm' => hf m' (by simp [hm'])) u t h)

theorem blkDec_frames (p : Params) (b : Nat) : MicroOp.Frames (blkDec p b) := by
  unfold blkDec blkDec8 blkDec7
  split <;> exact decodeTo_frames _ _ _ _ _

theorem blkDecs_frames (p : Params) (bs : List Nat) : MicroOp.Frames (blkDecs p bs) := by
  apply runMicros_frames
  intro m hm
  obtain ⟨b, -, rfl⟩ := List.mem_map.1 hm
  exact blkDec_frames p b

/-- A check that passes leaves the state as it was (R91, R92, R93, R96, R98). -/
theorem typeChk_ok {s t : State} (h : typeChk s = .ok t) : t = s := by cases h; rfl

theorem kindChk_ok {s t : State} (h : kindChk s = .ok t) : t = s := by
  unfold kindChk at h; split at h <;> cases h; rfl

theorem lenChk_ok {s t : State} (h : lenChk s = .ok t) : t = s := by
  unfold lenChk at h; split at h <;> cases h; rfl

theorem pfxMatch_ok {p : Params} {s t : State} (h : pfxMatch p s = .ok t) : t = s := by
  unfold pfxMatch at h
  split at h
  · split at h <;> cases h; rfl
  · cases h

theorem csumCmp_ok {s t : State} (h : csumCmp s = .ok t) : t = s := by
  unfold csumCmp at h; split at h <;> cases h; rfl

@[simp] theorem hashCall_eq (p : Params) (s : State) :
    hashCall p s = .ok (s.setDig (p.hash (paySpendView s.pay.toList))) := rfl

/-- The whole sequence leaves everything beside `PAY`, `DIG` and the accumulator (R102). -/
theorem runSequence_frames (p : Params) : MicroOp.Frames (runMicros (runSequence p)) := by
  apply runMicros_frames
  intro m hm s t h
  simp only [runSequence, List.mem_cons, List.not_mem_nil, or_false] at hm
  rcases hm with rfl | rfl | rfl | rfl | rfl | rfl | rfl
  · rw [typeChk_ok h]; exact .refl s
  · rw [kindChk_ok h]; exact .refl s
  · rw [lenChk_ok h]; exact .refl s
  · exact blkDecs_frames p _ s t h
  · rw [pfxMatch_ok h]; exact .refl s
  · rw [hashCall_eq] at h; cases h; exact ⟨rfl, rfl, rfl, rfl, rfl, rfl, rfl⟩
  · rw [csumCmp_ok h]; exact .refl s

/-- All a RUN's checks can end in: ACCEPT after the whole sequence, or the reject that ended it (R90, R99, R126). -/
theorem verifyBuffer_cases (p : Params) (s : State) :
    (∃ t, runMicros (runSequence p) s = .ok t ∧ SameBesideBuffers s t ∧ verifyBuffer p s = t.acceptResult) ∨
    (∃ r, runMicros (runSequence p) s = .error r ∧ verifyBuffer p s = s.raiseReject r) := by
  unfold verifyBuffer
  cases h : runMicros (runSequence p) s with
  | ok t => exact .inl ⟨t, rfl, runSequence_frames p s t h, rfl⟩
  | error r => exact .inr ⟨r, rfl, rfl⟩

@[simp] theorem completeRun_abuf (p : Params) (s : State) : (completeRun p s).abuf = s.abuf := by
  unfold completeRun
  rcases verifyBuffer_cases p s with ⟨t, -, hf, h⟩ | ⟨r, -, h⟩ <;> rw [h]
  · exact hf.1
  · rfl

@[simp] theorem completeRun_len (p : Params) (s : State) : (completeRun p s).len = s.len := by
  unfold completeRun
  rcases verifyBuffer_cases p s with ⟨t, -, hf, h⟩ | ⟨r, -, h⟩ <;> rw [h]
  · exact hf.2.1
  · rfl

@[simp] theorem completeRun_edges (p : Params) (s : State) : (completeRun p s).edges = s.edges := by
  unfold completeRun
  rcases verifyBuffer_cases p s with ⟨t, -, hf, h⟩ | ⟨r, -, h⟩ <;> rw [h]
  · exact hf.2.2.2.2.2.1
  · rfl

@[simp] theorem completeRun_done (p : Params) (s : State) : (completeRun p s).status.done = true := by
  unfold completeRun
  rcases verifyBuffer_cases p s with ⟨t, -, hf, h⟩ | ⟨r, -, h⟩ <;> rw [h] <;> rfl

@[simp] theorem completeRun_busy (p : Params) (s : State) : (completeRun p s).status.busy = false := by
  unfold completeRun
  rcases verifyBuffer_cases p s with ⟨t, -, hf, h⟩ | ⟨r, -, h⟩ <;> rw [h] <;> rfl

@[simp] theorem completeRun_cmderr (p : Params) (s : State) :
    (completeRun p s).status.cmderr = s.status.cmderr := by
  unfold completeRun
  rcases verifyBuffer_cases p s with ⟨t, -, hf, h⟩ | ⟨r, -, h⟩ <;> rw [h]
  · simp [hf.2.2.1]
  · rfl

/-- All that decoding block `b` can do, beside the function it computes: its bytes go to `PAY` from offset `8*b`, or it raises
ALPHABET (R82, R83, R86). -/
theorem blkDec_cases (p : Params) (s : State) (b : Nat) :
    (∃ g t, decodeBlock p s.abuf.toList b = some g ∧ g.length = blockBytes b ∧ blkDec p b s = .ok t ∧
      SameBesideBuffers s t ∧ (b ≤ 8 → t.pay = writeFrom s.pay (8 * b) g) ∧ t.dig = s.dig) ∨
    (decodeBlock p s.abuf.toList b = none ∧ blkDec p b s = .error .alphabet) := by
  unfold decodeBlock blkDec blkDec8 blkDec7 blockChars blockBytes
  by_cases hb : b < Config.fullBlocks
  · simp only [hb, if_true]
    rcases decodeTo_cases p (Config.fullChars * b) Config.fullChars (Config.fullBytes * b) Config.fullBytes s with
      ⟨v, h1, h2, h3⟩ | ⟨h1, h3⟩
    · left
      simp only [h1, h2, h3, if_true]
      refine ⟨_, _, rfl, by simp, rfl, decodeTo_frames _ _ _ _ _ _ _ h3, ?_, by simp⟩
      intro _
      rw [stripBytes_acc Config.fullBytes v (by simp)]
      simp only [State.setPay_pay]
    · right
      rcases h1 with h1 | ⟨v, h1, h2⟩
      · simp [h1, h3]
      · simp [h1, h2, h3]
  · simp only [hb, if_false]
    rcases decodeTo_cases p (Config.fullChars * Config.fullBlocks) Config.tailChars
        (Config.fullBytes * Config.fullBlocks) Config.tailBytes s with ⟨v, h1, h2, h3⟩ | ⟨h1, h3⟩
    · left
      simp only [h1, h2, h3, if_true]
      refine ⟨_, _, rfl, by simp, rfl, decodeTo_frames _ _ _ _ _ _ _ h3, ?_, by simp⟩
      intro hb8
      have hb' : ¬b < 8 := hb
      have h8 : b = 8 := by omega
      rw [stripBytes_acc Config.tailBytes v (by decide)]
      subst h8
      simp only [State.setPay_pay, Config.fullBytes, Config.fullBlocks]
    · right
      rcases h1 with h1 | ⟨v, h1, h2⟩
      · simp [h1, h3]
      · simp [h1, h2, h3]

theorem blockBytes_eq (b : Nat) : blockBytes b = if b < 8 then 8 else 7 := rfl

@[simp] theorem decodeBlocks_nil (p : Params) (addr : List Byte) : decodeBlocks p addr [] = some [] := rfl

/-- Decoding the last `m` blocks in order, beside the function it computes: their bytes fill `PAY` from offset `8*k` on, or one of
them fails (R84, R86). -/
theorem blkDecs_range' (p : Params) (m k : Nat) (hk : k + m = 9) (s : State) :
    (∃ gs t, decodeBlocks p s.abuf.toList (List.range' k m) = some gs ∧ (m ≠ 0 → gs.length = 71 - 8 * k) ∧
      blkDecs p (List.range' k m) s = .ok t ∧ SameBesideBuffers s t ∧ t.dig = s.dig ∧
      ∀ i, i < 71 → t.pay.toList[i]? = if i < 8 * k ∨ m = 0 then s.pay.toList[i]? else gs[i - 8 * k]?) ∨
    (decodeBlocks p s.abuf.toList (List.range' k m) = none ∧ blkDecs p (List.range' k m) s = .error .alphabet) := by
  induction m generalizing k s with
  | zero => exact .inl ⟨[], s, rfl, by simp, rfl, .refl s, rfl, by simp⟩
  | succ m ih =>
    simp only [List.range'_succ, decodeBlocks, blkDecs, List.map_cons, runMicros_cons]
    rcases blkDec_cases p s k with ⟨g, t, h1, hl, h2, hf, hp, hd⟩ | ⟨h1, h2⟩
    · have ih' := ih (k + 1) (by omega) t
      rw [hf.1] at ih'
      have hg : g.length = if k < 8 then 8 else 7 := hl
      rcases ih' with ⟨gs, u, h3, hl', h4, hf', hd', hp'⟩ | ⟨h3, h4⟩
      · left
        have h4' : runMicros (List.map (blkDec p) (List.range' (k + 1) m)) t = .ok u := h4
        simp only [h1, h3, h2, h4']
        have hnil : m = 0 → gs = [] := by
          intro hm
          subst hm
          simpa [decodeBlocks] using h3.symm
        refine ⟨_, _, rfl, ?_, rfl, hf.trans hf', hd'.trans hd, ?_⟩
        · intro _
          rw [List.length_append, hg]
          by_cases hm : m = 0
          · simp only [hnil hm, List.length_nil]
            split <;> omega
          · rw [hl' hm]
            split <;> omega
        · intro i hi
          rw [hp' i hi, hp (by omega), writeFrom_getElem? _ _ _ _ (by rw [hg]; split <;> omega), hg]
          by_cases hm : m = 0
          · have h8 : k = 8 := by omega
            subst h8
            simp only [hm, hnil hm, List.append_nil, or_true, if_true, Nat.succ_ne_zero, or_false, Nat.lt_irrefl, if_false]
            by_cases h64 : i < 8 * 8
            · rw [if_neg (by omega), if_pos (by omega)]
            · rw [if_pos (by omega), if_neg (by omega)]
          · have hk8 : k < 8 := by omega
            simp only [hk8, hm, if_true, or_false, Nat.succ_ne_zero]
            by_cases ha : i < 8 * k
            · rw [if_pos (by omega), if_neg (by omega), if_pos ha]
            · rw [if_neg ha]
              by_cases hb : i < 8 * (k + 1)
              · rw [if_pos hb, if_pos (by omega), List.getElem?_append_left (by rw [hg, if_pos hk8]; omega)]
              · rw [if_neg hb, List.getElem?_append_right (by rw [hg, if_pos hk8]; omega), hg, if_pos hk8]
                congr 1
      · right
        have h4' : runMicros (List.map (blkDec p) (List.range' (k + 1) m)) t = .error .alphabet := h4
        simp [h1, h3, h2, h4']
    · right
      simp [h1, h2]

/-- All that DECODE can do, beside the function it computes: `PAY` holds the payload, or ALPHABET is raised (R94). -/
theorem decodeAddr_cases (p : Params) (s : State) :
    (∃ pay t, decodePayload p s.abuf.toList = some pay ∧ pay.length = 71 ∧ decodeAddr p s = .ok t ∧
      SameBesideBuffers s t ∧ t.dig = s.dig ∧ t.pay.toList = pay) ∨
    (decodePayload p s.abuf.toList = none ∧ decodeAddr p s = .error .alphabet) := by
  have e : List.range (Config.fullBlocks + 1) = List.range' 0 9 := by decide
  unfold decodePayload decodeAddr
  rw [e]
  rcases blkDecs_range' p 9 0 rfl s with ⟨gs, t, h1, h2, h3, h4, h5, h6⟩ | h
  · refine .inl ⟨gs, t, h1, h2 (by decide), h3, h4, h5, ?_⟩
    have hlen : gs.length = 71 := h2 (by decide)
    apply List.ext_getElem?
    intro i
    by_cases hi : i < 71
    · rw [h6 i hi]
      simp
    · rw [List.getElem?_eq_none (by simp; omega), List.getElem?_eq_none (by omega)]
  · exact .inr h

/-- The codes without a kind are 3..255 (R56). -/
theorem kindOf_eq_none (k : Byte) : kindOf k = none ↔ 2 < k.toNat := by
  revert k; decide +kernel

end Sys2Proof.Machine
end

