-- ==== Sys2Proof/Laws/Step.lean ====
section
/-! SUPPORT. What one step can do, said once. -/

namespace Sys2Proof.Machine

@[simp] theorem popEdge_edges (s : State) : s.popEdge.edges = s.edges.tail := rfl
@[simp] theorem popEdge_abuf (s : State) : s.popEdge.abuf = s.abuf := rfl
@[simp] theorem popEdge_len (s : State) : s.popEdge.len = s.len := rfl
@[simp] theorem popEdge_status (s : State) : s.popEdge.status = s.status := rfl
@[simp] theorem popEdge_kreg (s : State) : s.popEdge.kreg = s.kreg := rfl
@[simp] theorem popEdge_pay (s : State) : s.popEdge.pay = s.pay := rfl
@[simp] theorem popEdge_dig (s : State) : s.popEdge.dig = s.dig := rfl
@[simp] theorem popEdge_hashCore (s : State) : s.popEdge.hashCore = s.hashCore := rfl
@[simp] theorem popEdge_acc (s : State) : s.popEdge.acc = s.acc := rfl
@[simp] theorem popEdge_freeIdx (s : State) : s.popEdge.freeIdx = s.freeIdx := rfl

@[simp] theorem exec_nop (s : State) : exec .nop s = .next s := rfl
@[simp] theorem exec_clr (s : State) : exec .clr s = .next s.zeroLen.clearResult := rfl
@[simp] theorem exec_push (c : Byte) (s : State) : exec (.push c) s = .next (s.storeChar c).advanceLen.clearResult := rfl
@[simp] theorem exec_run (k : Byte) (s : State) : exec (.run k) s = .next (s.startRun k) := rfl

/-- A command is accepted on an edge only when there is no reset, no RUN in progress, `cmd_valid = 1`, and the word decodes to
it (R40, R41). -/
theorem edgeEvent_eq_command {busy : Bool} {e : Edge} {i : Instr} (h : edgeEvent busy e = .command i) :
    e.rst = false ∧ busy = false ∧ e.cmdValid = true ∧ decode e.cmd = .ok i := by
  unfold edgeEvent acceptWord at h
  cases hr : e.rst <;> cases busy <;> cases hv : e.cmdValid <;> simp [hr, hv] at h
  · cases hd : decode e.cmd with
    | ok j => simp [hd] at h; exact ⟨rfl, rfl, rfl, by rw [h]⟩
    | error w => simp [hd] at h
  all_goals exact absurd h (by split <;> simp)

/-- The machine's step is the step at the default parameters (R7). -/
@[simp] theorem stepWith_params (s : State) : stepWith params s = step s := rfl

/-- The machine is the parameterised one at the default parameters (R7). -/
theorem core_eq_coreWith : Sys2Proof.core = coreWith params := rfl

/-- All a step can do with the parameters `p`, by the event of its edge. -/
theorem stepWith_cases {p : Params} {s t : State} (h : stepWith p s = .next t) :
    (s.event = .reset ∧ t = s.popEdge.resetBlock) ∨
    (s.event = .stalled ∧ t = s.popEdge) ∨
    (s.event = .complete ∧ t = completeRun p s.popEdge) ∨
    (s.event = .idle ∧ t = s.popEdge) ∨
    (∃ why, s.event = .reserved why ∧ t = s.popEdge.acceptReserved) ∨
    (s.event = .command .nop ∧ t = s.popEdge) ∨
    (s.event = .command .clr ∧ t = s.popEdge.zeroLen.clearResult) ∨
    (∃ c, s.event = .command (.push c) ∧ t = (s.popEdge.storeChar c).advanceLen.clearResult) ∨
    (∃ k, s.event = .command (.run k) ∧ t = s.popEdge.startRun k) := by
  unfold stepWith at h
  cases he : s.event with
  | reset => simp [he] at h; simp [h]
  | stalled => simp [he] at h; simp [h]
  | complete => simp [he] at h; simp [h]
  | idle => simp [he] at h; simp [h]
  | reserved why => simp [he] at h; simp [h]
  | command i => cases i <;> simp [he] at h <;> simp [h]

/-- All a step can do, by the event of its edge. -/
theorem step_cases {s t : State} (h : step s = .next t) :
    (s.event = .reset ∧ t = s.popEdge.resetBlock) ∨
    (s.event = .stalled ∧ t = s.popEdge) ∨
    (s.event = .complete ∧ t = completeRun params s.popEdge) ∨
    (s.event = .idle ∧ t = s.popEdge) ∨
    (∃ why, s.event = .reserved why ∧ t = s.popEdge.acceptReserved) ∨
    (s.event = .command .nop ∧ t = s.popEdge) ∨
    (s.event = .command .clr ∧ t = s.popEdge.zeroLen.clearResult) ∨
    (∃ c, s.event = .command (.push c) ∧ t = (s.popEdge.storeChar c).advanceLen.clearResult) ∨
    (∃ k, s.event = .command (.run k) ∧ t = s.popEdge.startRun k) :=
  stepWith_cases h

/-- One edge, then the rest of the run. -/
theorem runEdgesWith_next {p : Params} {n : Nat} {s t : State} (h : stepWith p s = .next t) :
    runEdgesWith p (n + 1) s = runEdgesWith p n t := by
  simp only [runEdgesWith, h]

theorem runEdges_next {n : Nat} {s t : State} (h : step s = .next t) : runEdges (n + 1) s = runEdges n t :=
  runEdgesWith_next h

@[simp] theorem runEdgesWith_zero (p : Params) (s : State) : runEdgesWith p 0 s = .next s := rfl

@[simp] theorem runEdges_zero (s : State) : runEdges 0 s = .next s := rfl

/-- A run of edges is the host's run of the machine with these parameters. -/
theorem runEdgesWith_eq_run (p : Params) (n : Nat) (s : State) :
    runEdgesWith p n s = Host.Core.run (coreWith p) n s := by
  induction n generalizing s with
  | zero => rfl
  | succ n ih =>
    have hs : (coreWith p).step s = stepWith p s := rfl
    cases h : stepWith p s with
    | next t => simp only [runEdgesWith, h, ih, Host.Core.run, hs]; rfl
    | fault r => simp only [runEdgesWith, h, Host.Core.run, hs]; rfl
    | refused r => simp only [runEdgesWith, h, Host.Core.run, hs]; rfl

/-- A run of edges is the host's run of this machine. -/
theorem runEdges_eq_run (n : Nat) (s : State) : runEdges n s = Host.Core.run Sys2Proof.core n s :=
  runEdgesWith_eq_run params n s

/-- What decides the event of an edge (R40, R41, R140). -/
theorem event_eq_reset {s : State} (h : s.nextEdge.rst = true) : s.event = .reset := by
  simp [State.event, edgeEvent, h]

theorem event_eq_complete {s : State} (hb : s.status.busy = true) (h : s.nextEdge.rst = false)
    (h' : s.nextEdge.stall = false) : s.event = .complete := by
  simp [State.event, edgeEvent, h, hb, h']

theorem event_eq_stalled {s : State} (hb : s.status.busy = true) (h : s.nextEdge.rst = false)
    (h' : s.nextEdge.stall = true) : s.event = .stalled := by
  simp [State.event, edgeEvent, h, hb, h']

theorem event_eq_idle {s : State} (hb : s.status.busy = false) (h : s.nextEdge.rst = false)
    (h' : s.nextEdge.cmdValid = false) : s.event = .idle := by
  simp [State.event, edgeEvent, h, hb, h']

theorem event_eq_acceptWord {s : State} (hb : s.status.busy = false) (h : s.nextEdge.rst = false)
    (h' : s.nextEdge.cmdValid = true) : s.event = acceptWord s.nextEdge.cmd := by
  simp [State.event, edgeEvent, h, hb, h']

end Sys2Proof.Machine
end

