-- ==== Sys2Proof/Tests/Slice0.lean ====
section
/-! SUPPORT. Our own tests: refused words, decodings written out from the spec, one-step tests with the expected values of
spec/95_test_vectors.md, and for every statement with hypotheses a concrete instance that meets them. -/

namespace Sys2Proof.Tests

open Sys2Proof Sys2Proof.Machine

/-! ## Helpers -/

/-- The address `A` of spec/95_test_vectors.md, its symbols as listed there. -/
def addressA : List Byte :=
  [0x65, 0x74, 0x6e, 0x6b, 0x4d, 0x44, 0x52, 0x72, 0x37, 0x79, 0x39,
   0x62, 0x4d, 0x62, 0x55, 0x38, 0x57, 0x4a, 0x50, 0x56, 0x6b, 0x45,
   0x61, 0x32, 0x77, 0x36, 0x57, 0x4c, 0x4d, 0x79, 0x57, 0x59, 0x63,
   0x31, 0x6f, 0x42, 0x39, 0x4b, 0x36, 0x74, 0x58, 0x39, 0x44, 0x6d,
   0x61, 0x62, 0x61, 0x42, 0x52, 0x6b, 0x79, 0x65, 0x6a, 0x66, 0x31,
   0x44, 0x37, 0x37, 0x61, 0x4d, 0x78, 0x38, 0x48, 0x53, 0x52, 0x4a,
   0x57, 0x76, 0x79, 0x43, 0x69, 0x6f, 0x56, 0x71, 0x74, 0x44, 0x34,
   0x37, 0x48, 0x63, 0x37, 0x79, 0x6a, 0x62, 0x33, 0x50, 0x55, 0x42,
   0x39, 0x59, 0x34, 0x72, 0x6e, 0x77, 0x50, 0x6f, 0x56, 0x79]

/-- A buffer that holds `str` from entry 0 on, zeros after it. -/
def bufferOf (str : List Byte) : Vector Byte 98 := tabulate 98 fun i => str.getD i 0

/-- `A` with position `i` replaced. -/
def alteredA (i : Nat) (c : Byte) : List Byte := addressA.set i c

/-- An idle block with the given string and length. -/
def holding (str : List Byte) (len : BitVec 7) : State := { State.reset with abuf := bufferOf str, len := len }

/-- `STATUS = 0x03`. -/
def validStatus : Status := { Status.zero with done := true, valid := true }
/-- `STATUS = 0x15`. -/
def checksumStatus : Status := { Status.zero with done := true, err := 5#3 }
/-- `STATUS = 0x20`. -/
def busyStatus : Status := { Status.zero with busy := true }
/-- `STATUS = 0x40`. -/
def cmderrStatus : Status := { Status.zero with cmderr := true }

/-- An idle block of length `len` and status `st` to which the host presents the word `w`. -/
def presented (len : BitVec 7) (st : Status) (w : CmdWord) : State :=
  { State.reset with len := len, status := st, edges := [Edge.present w] }

/-- A RUN with kind `k` in progress on the given string and length, about to complete. -/
def running (str : List Byte) (len : BitVec 7) (k : Byte) : State :=
  { State.reset with abuf := bufferOf str, len := len, kreg := k, status := busyStatus }

/-- An edge with `rst = 1` and a PUSH presented on it (vector Z3). -/
def resetEdge : Edge := { rst := true, cmdValid := true, cmd := 0x2065, stall := false }
/-- An edge on which a RUN in progress goes on. -/
def stallEdge : Edge := { Edge.idle with stall := true }

/-- `LEN` and the status port after a step, or nothing if it stopped. -/
def after (o : Host.Outcome State Fault Refusal) : Option (Nat × Byte) :=
  match o with
  | .next t => some (t.len.toNat, t.statusPort)
  | .fault _ => none
  | .refused _ => none

/-- `KREG` after a step. -/
def kregAfter (o : Host.Outcome State Fault Refusal) : Option Byte :=
  match o with
  | .next t => some t.kreg
  | .fault _ => none
  | .refused _ => none

/-- Entry `i` of `ABUF` after a step. -/
def abufAfter (i : Nat) (o : Host.Outcome State Fault Refusal) : Option Byte :=
  match o with
  | .next t => t.abuf.toList[i]?
  | .fault _ => none
  | .refused _ => none

/-- Parameters with a table of distinct prefixes and a constant hash, so that every outcome can be reached cheaply. -/
def zeroParams (prefixByte digestByte : Byte) : Params where
  prefixTable := fun _ => #v[prefixByte, 0, 0]
  hash := fun _ => Vector.replicate 32 digestByte
  overflow := .truncate

/-- 98 padding digits: every block has the value 0. -/
def ones : List Byte := List.replicate 98 0x31

/-! ## Refused words (R51, R62), one for each check -/

theorem test_refuse_opcode : CmdWord.wf 0x4000 = false ∧ decode 0x4000 = .error .opcode := by decide
theorem test_refuse_opcode_top : CmdWord.wf 0xffff = false ∧ decode 0xffff = .error .opcode := by decide
theorem test_refuse_rsv_push : CmdWord.wf 0x2165 = false ∧ decode 0x2165 = .error .reservedField := by decide
theorem test_refuse_rsv_run : CmdWord.wf 0x3100 = false ∧ decode 0x3100 = .error .reservedField := by decide
theorem test_refuse_arg_nop : CmdWord.wf 0x0001 = false ∧ decode 0x0001 = .error .argument := by decide
theorem test_refuse_arg_clr : CmdWord.wf 0x1001 = false ∧ decode 0x1001 = .error .argument := by decide
theorem test_wf_commands : CmdWord.wf 0x0000 ∧ CmdWord.wf 0x1000 ∧ CmdWord.wf 0x20ff ∧ CmdWord.wf 0x3003 := by decide

/-! ## Decodings, the words written out bit by bit from R50 and R51 -/

theorem test_decode_nop : decode 0b0000000000000000 = .ok .nop := by decide
theorem test_decode_clr : decode 0b0001000000000000 = .ok .clr := by decide
theorem test_decode_push_e : decode 0b0010000001100101 = .ok (.push 0x65) := by decide
theorem test_decode_push_80 : decode 0b0010000010000000 = .ok (.push 0x80) := by decide
theorem test_decode_run_testnet : decode 0b0011000000000001 = .ok (.run 1) := by decide
theorem test_decode_run_unknown : decode 0b0011000011111111 = .ok (.run 255) := by decide
theorem test_decodeTableWord : decodeTableWord 16 0x2065 = some (.push 0x65) ∧ decodeTableWord 16 0x4000 = none := by
  decide

/-! ## One step (spec/95_test_vectors.md sections 2.7 and 2.8) -/

theorem test_C1_nop_keeps_result : after (step (presented 98 validStatus 0x0000)) = some (98, 0x03) := by decide
theorem test_C2_clr : after (step (presented 98 checksumStatus 0x1000)) = some (0, 0x00) := by decide
theorem test_C4_clr_keeps_cmderr : after (step (presented 5 cmderrStatus 0x1000)) = some (0, 0x40) := by decide
theorem test_C6_push_last_entry :
    after (step (presented 97 Status.zero 0x2079)) = some (98, 0x00) ∧
      abufAfter 97 (step (presented 97 Status.zero 0x2079)) = some 0x79 := by decide
theorem test_C7_push_past_end : after (step (presented 98 validStatus 0x2031)) = some (99, 0x00) := by decide
theorem test_C9_push_saturates : after (step (presented 127 Status.zero 0x20ff)) = some (127, 0x00) := by decide
theorem test_C12_run_accepted :
    after (step (presented 98 validStatus 0x30ff)) = some (98, 0x20) ∧
      kregAfter (step (presented 98 validStatus 0x30ff)) = some 0xff := by decide
theorem test_C14_reserved_keeps_result : after (step (presented 98 validStatus 0x0001)) = some (98, 0x43) := by decide
theorem test_C17_reserved_starts_no_run : after (step (presented 98 Status.zero 0x3100)) = some (98, 0x40) := by decide
theorem test_C19_busy_ignores_words :
    after (step { presented 5 busyStatus 0x1000 with edges := [{ Edge.present 0x1000 with stall := true }] }) =
      some (5, 0x20) := by decide
theorem test_Z2_reset_abandons_run :
    after (step { running addressA 98 0 with edges := [resetEdge] }) = some (0, 0x00) := by decide

/-! ## Completion of a RUN (spec/95_test_vectors.md section 2.4) -/

theorem test_V1_example_address : after (step (running addressA 98 0)) = some (98, 0x03) := by decide +kernel
theorem test_K1_kind_3 : after (step (running addressA 98 3)) = some (98, 0x05) := by decide +kernel
theorem test_L2_one_long : after (step (running addressA 99 0)) = some (99, 0x09) := by decide +kernel
theorem test_B2_last_character : after (step (running (alteredA 97 0x6c) 98 0)) = some (98, 0x0d) := by decide +kernel
theorem test_X1_prefix : after (step (running (alteredA 0 0x66) 98 0)) = some (98, 0x11) := by decide +kernel

/-! ## The decoder (spec/95_test_vectors.md sections 2.1, 2.2 and 2.5) -/

theorem test_V1d_tail_block :
    decodeBlock params addressA 8 = some [0xe1, 0x3d, 0xbb, 0x6a, 0xd5, 0x71, 0xb8] := by decide +kernel
theorem test_V1d_block_3 :
    decodeBlock params addressA 3 = some [0x04, 0xc2, 0x7a, 0x91, 0x3b, 0x30, 0x7d, 0x84] := by decide +kernel
/-- Vector O4: the tail `KEjsbktQmV` decodes as `A`'s own tail, or fails under `OVERFLOW = reject`. -/
theorem test_O4_overflow :
    let tail := [0x4b, 0x45, 0x6a, 0x73, 0x62, 0x6b, 0x74, 0x51, 0x6d, 0x56]
    decodeBlock params (addressA.take 88 ++ tail) 8 = decodeBlock params addressA 8 ∧
      decodeBlock { params with overflow := .reject } (addressA.take 88 ++ tail) 8 = none := by decide +kernel

/-! ## Text (spec/30_encoding.md R66, R67) -/

theorem test_assemble_push_literal : readLine (ascii ['p', 'U', 's', 'H', ' ', '\'', 'e', '\'']) =
    some (.command (.push 0x65)) := by decide +kernel
theorem test_assemble_validate_empty :
    (readLine (ascii ['V', 'A', 'L', 'I', 'D', 'A', 'T', 'E', ' ', '"', '"', ',', ' ', '2'])).map AsmLine.words =
      some [0x1000, 0x3002] := by decide +kernel

/-! ## Witnesses: for every statement with hypotheses, an instance that meets them, at the boundary values of its clauses -/

/-- A state about to complete a RUN, then to accept a word. -/
def pushedState (len : BitVec 7) (c : Byte) : State := presented len Status.zero (encode (.push c))

theorem witness_DecodeOfEncode : (Instr.push 0xff).wf = true ∧ (Instr.run 3).wf = true := by decide
theorem witness_EncodeOfDecode : decode 0x30ff = .ok (.run 0xff) ∧ decode 0x1000 = .ok .clr := by decide
theorem witness_DecodeFollowsOpcodeMap : OpRow.push.covers 0x20ff = true ∧ OpRow.run.covers 0x3000 = true := by decide
theorem witness_ReservedWordSetsCmderrOnly :
    (∀ w, AcceptsNext (presented 2 Status.zero w) ∧ (presented 2 Status.zero w).nextEdge.cmd = w) ∧
      IsReserved 0x4000 ∧ IsReserved 0xffff ∧ IsReserved 0x2165 ∧ IsReserved 0x0001 ∧ IsReserved 0x10ff :=
  ⟨fun _ => ⟨⟨rfl, rfl, rfl⟩, rfl⟩, .inl (by decide), .inl (by decide), .inr (.inl (by decide)),
    .inr (.inr (by decide)), .inr (.inr (by decide))⟩
theorem witness_StepRunsDecodedCommand :
    AcceptsNext (presented 97 validStatus 0x2079) ∧
      decode (presented 97 validStatus 0x2079).nextEdge.cmd = .ok (.push 0x79) ∧ (Instr.push 0x79).wf = true ∧
      decode (tableWord 16 0x3000) = .ok (.run 0) := by
  simp only [AcceptsNext]
  decide
theorem witness_UnacceptedWordIgnored :
    Edge.idle.cmdValid = false ∧ (running [] 0 0).cmdReady = false ∧
      State.reset.nextEdge.rst = false ∧ State.reset.cmdReady = true ∧ State.reset.nextEdge.cmdValid = false := by decide
theorem witness_CmdReadyLowOnlyDuringRun :
    (∃ t, step (presented 98 validStatus 0x30ff) = .next t ∧ t.cmdReady = false) ∧
    (∃ t, step { running [] 0 0 with edges := [stallEdge] } = .next t ∧ t.cmdReady = false) ∧
    (∃ t, step (presented 98 validStatus 0x1000) = .next t ∧ t.cmdReady = true) :=
  ⟨⟨_, rfl, rfl⟩, ⟨_, rfl, rfl⟩, ⟨_, rfl, rfl⟩⟩
theorem witness_StepConsumesOneEdge : ∃ t, step (pushedState 0 0x65) = .next t ∧ t.edges = [] := ⟨_, rfl, rfl⟩
theorem witness_ResetEdgeClearsLenAndStatus :
    ({ running addressA 98 0 with edges := [resetEdge] } : State).nextEdge.rst = true ∧
      ∃ t, step { presented 5 cmderrStatus 0x1000 with edges := [resetEdge] } = .next t ∧ t.status.cmderr = false :=
  ⟨by decide, _, rfl, rfl⟩
theorem witness_NopChangesNothing :
    CmdWord.op 0x0001 = 0#4 ∧ (0x0001 : CmdWord) ≠ 0x0000 ∧ CmdWord.op 0x0100 = 0#4 ∧
      (running [] 0 0).status.busy = true := by decide
theorem witness_ClrClearsLenAndResult :
    ∃ t, exec .clr (presented 98 checksumStatus 0x1000) = .next t ∧
      t.len.toNat < (presented 98 checksumStatus 0x1000).len.toNat := ⟨_, rfl, by decide⟩
theorem witness_PushAppendsOneSymbol :
    (pushedState 0 0).len.toNat < 98 ∧ (pushedState 97 0xff).len.toNat < 98 ∧
      (97 : Nat) ≠ (pushedState 98 0).len.toNat ∧ (pushedState 127 0xff).len.toNat = 127 := by decide
theorem witness_RunAcceptsThenCompletes :
    ({ running [] 0 0 with edges := [stallEdge] } : State).status.busy = true ∧
      ({ running [] 0 0 with edges := [stallEdge] } : State).nextEdge.rst = false ∧
      ({ running [] 0 0 with edges := [stallEdge] } : State).nextEdge.stall = true ∧
      (running addressA 98 0).status.busy = true ∧ CompletesNext (running addressA 98 0) ∧
      (97#7).toNat ≠ 98 ∧ (99#7).toNat ≠ 98 := by
  simp only [CompletesNext]
  decide
theorem witness_RunAlwaysEndsInResult :
    let s : State := { holding addressA 98 with
      edges := Edge.present (encode (.run 3)) :: ([stallEdge, stallEdge] ++ Edge.idle :: [resetEdge]) }
    s.status.busy = false ∧ AllStall [stallEdge, stallEdge] ∧ Edge.idle.rst = false ∧ Edge.idle.stall = false := by
  simp [AllStall, stallEdge, Edge.idle, holding, State.reset, Status.zero]
theorem witness_EveryRunCompletesWithoutReset :
    ({ running addressA 98 0 with edges := [stallEdge, stallEdge] } : State).status.busy = true ∧
      NoReset { running addressA 98 0 with edges := [stallEdge, stallEdge] } := by
  simp [NoReset, stallEdge, Edge.idle, running, busyStatus]
/-- One step for each kind of event: the hypothesis of `LenFollowsEdgeEvent`, `CmderrIsSticky` and `StepKeepsStatusLegal`. -/
theorem witness_LenFollowsEdgeEvent :
    (∃ t, step { presented 5 Status.zero 0 with edges := [resetEdge] } = .next t) ∧
    (∃ t, step (presented 5 Status.zero 0x1000) = .next t ∧ t.len = 0#7) ∧
    (∃ t, step (pushedState 126 0) = .next t ∧ t.len = 127#7) ∧
    (∃ t, step (pushedState 127 0) = .next t ∧ t.len = 127#7) ∧
    (∃ t, step (presented 5 Status.zero 0) = .next t ∧ t.len = 5#7) :=
  ⟨⟨_, rfl⟩, ⟨_, rfl, rfl⟩, ⟨_, rfl, rfl⟩, ⟨_, rfl, rfl⟩, ⟨_, rfl, rfl⟩⟩
theorem witness_AbufWrittenOnlyByPush :
    ∃ t, step (presented 5 Status.zero 0x1000) = .next t ∧ (presented 5 Status.zero 0x1000).event = .command .clr :=
  ⟨_, rfl, by decide⟩
theorem witness_CmderrIsSticky :
    (∃ t, step (presented 5 Status.zero 0x4000) = .next t ∧ t.status.cmderr = true) ∧
    (∃ t, step (presented 5 cmderrStatus 0x1000) = .next t ∧ t.status.cmderr = true) ∧
    (∃ t, step { presented 5 cmderrStatus 0x1000 with edges := [resetEdge] } = .next t ∧ t.status.cmderr = false) :=
  ⟨⟨_, rfl, rfl⟩, ⟨_, rfl, rfl⟩, ⟨_, rfl, rfl⟩⟩
theorem witness_StatusPackedLayout : validStatus.Legal ∧ checksumStatus.Legal ∧ busyStatus.Legal ∧ cmderrStatus.Legal := by
  simp [Status.Legal, validStatus, checksumStatus, busyStatus, cmderrStatus, Status.zero]
theorem witness_StepKeepsStatusLegal :
    validStatus.Legal ∧ ∃ t, step (presented 98 validStatus 0x30ff) = .next t ∧ t.status.busy = true :=
  ⟨witness_StatusPackedLayout.1, _, rfl, rfl⟩
/-- A state that shows a result, LENGTH on the empty string, and a step from it. -/
theorem witness_StepKeepsResultDescribesBuffer :
    let s : State := { State.reset with
      status := { Status.zero with done := true, err := 2#3 }, edges := [Edge.present 0x0000] }
    s.status.done = true ∧ ResultDescribesBuffer s ∧ ∃ t, step s = .next t :=
  ⟨rfl, fun _ => ⟨0, by decide⟩, _, rfl⟩
theorem witness_StepTracksPushedString :
    HoldsString (pushedState 0 0x65) [] ∧ ∃ t, step (pushedState 0 0x65) = .next t ∧ t.len = 1#7 :=
  ⟨⟨rfl, by simp⟩, _, rfl, rfl⟩
theorem witness_ResultIsAboutPushedString :
    HoldsString (holding [0x65, 0x74] 2) [0x65, 0x74] ∧ ([0x65, 0x74] : List Byte).length ≠ 98 := by
  refine ⟨⟨rfl, fun i _ c h => ?_⟩, by decide⟩
  match i, h with
  | 0, h => exact h
  | 1, h => exact h
theorem witness_ResultIsAboutPushedString_address : HoldsString (holding addressA 98) addressA := by
  refine ⟨by decide, fun i hi c h => ?_⟩
  rw [← h]
  have all : ∀ i, i < 98 → (holding addressA 98).abuf.toList[i]? = addressA[i]? := by decide +kernel
  exact all i hi
theorem witness_TransactionComputesValidate :
    let s : State := { State.reset with
      edges := presentAll ((transaction [0x65, 0x74] 0).map encode) ++ Edge.idle :: [resetEdge] }
    s.status.busy = false ∧ Edge.idle.rst = false ∧ Edge.idle.stall = false ∧ s.edges.length = 6 := by decide
/-- Every reject can be raised: the kind, the length, the alphabet, the prefix and the checksum. -/
theorem witness_RejectEntryWritesStatusOnly :
    let raised (p : Params) (s : State) : Option Reject :=
      match runMicros (runSequence p) s with
      | .error r => some r
      | .ok _ => none
    raised params (running ones 98 3) = some .inputType ∧ raised params (running ones 97 2) = some .length ∧
      raised params (running (ones.set 97 0x30) 98 2) = some .alphabet ∧
      raised params (running ones 98 2) = some .pfxMismatch ∧
      raised (zeroParams 0 1) (running ones 98 2) = some .checksum := by decide +kernel
/-- A list with a digit for every symbol, by evaluation. -/
theorem all_have_digits {l : List Byte} (h : (l.all fun c => (digit c).isSome) = true) : ∀ c ∈ l, digit c ≠ none := by
  intro c hc e
  have := List.all_eq_true.1 h c hc
  simp [e] at this
theorem mem_of_contains {c : Byte} {l : List Byte} (h : l.contains c = true) : c ∈ l := List.contains_iff_mem.1 h
theorem witness_FirstFailingCheckReported_early :
    params.overflow = .truncate ∧ (2 < (3 : Byte).toNat) ∧ ((2 : Byte).toNat ≤ 2 ∧ (97 : BitVec 7).toNat ≠ 98) ∧
      ((99 : BitVec 7).toNat ≠ 98) ∧ (∃ c ∈ (bufferOf (ones.set 97 0x30)).toList, digit c = none) :=
  ⟨rfl, by decide, by decide, by decide, 0x30, mem_of_contains (by decide +kernel), by decide⟩
/-- The last three clauses: a decoded buffer with a wrong prefix, with a wrong checksum, and with neither. -/
theorem witness_FirstFailingCheckReported_late :
    kindOf 2 = some .stagenet ∧ (∀ c ∈ (bufferOf ones).toList, digit c ≠ none) ∧
      (decodePayload params (bufferOf ones).toList = some (List.replicate 71 0)) ∧
      payPrefix (List.replicate 71 0) ≠ (params.prefixTable .stagenet).toList ∧
      payPrefix (List.replicate 71 0) = ((zeroParams 0 0).prefixTable .stagenet).toList ∧
      slice ((zeroParams 0 1).hash (paySpendView (List.replicate 71 0))).toList 0 4 ≠
        payChecksum (List.replicate 71 0) ∧
      slice ((zeroParams 0 0).hash (paySpendView (List.replicate 71 0))).toList 0 4 =
        payChecksum (List.replicate 71 0) :=
  ⟨rfl, all_have_digits (by decide +kernel), by decide +kernel⟩
theorem witness_AcceptanceCondition :
    (zeroParams 0 0).overflow = .truncate ∧ result (zeroParams 0 0) (bufferOf ones) 98 2 = (true, 0#3) ∧
      result (zeroParams 0 0) (bufferOf ones) 99 2 = (false, 2#3) := by decide +kernel
theorem witness_KindsGiveSameResultByDefault : (0 : Byte).toNat ≤ 2 ∧ (2 : Byte).toNat ≤ 2 := by decide
theorem witness_PrefixRejectDependsOnFirstBlock :
    result params (bufferOf ones) 98 0 = (false, 4#3) ∧
      (decodePayload params (bufferOf ones).toList).isSome ∧
      (decodePayload params (bufferOf (ones.set 97 0x7a)).toList).isSome ∧
      (bufferOf ones).toList.take 11 = (bufferOf (ones.set 97 0x7a)).toList.take 11 := by decide +kernel
theorem witness_PrefixIsTopBitsOfFirstBlock :
    addressA.length = 98 ∧ (decodePayload params addressA).isSome ∧
      blockValue (addressA.take 11) = some 0xe28c01de0d3de9b8 := by decide +kernel
theorem witness_HashCallDigestsSpendView :
    let s' : State := { State.reset with pay := (Vector.replicate 71 (0 : Byte)).set 67 0xff }
    s'.pay.toList.take 67 = State.reset.pay.toList.take 67 ∧ s'.pay ≠ State.reset.pay := by decide
theorem witness_ChecksumComparesFourBytes :
    (∀ i, i < 4 → State.reset.dig.toList[i]? = State.reset.pay.toList[67 + i]?) ∧
      (∃ i, i < 4 ∧ ({ State.reset with pay := (Vector.replicate 71 (0 : Byte)).set 70 1 } : State).dig.toList[i]? ≠
        ({ State.reset with pay := (Vector.replicate 71 (0 : Byte)).set 70 1 } : State).pay.toList[67 + i]?) :=
  ⟨by decide, 3, by decide⟩
theorem witness_EqIsBytewise : ([0xe2, 0x8c, 0x01] : List Byte).length = 3 ∧ ([0xe2, 0x8c, 0x02] : List Byte).length = 3 := by
  decide
theorem witness_HornerIsPositionalSum : ∀ d ∈ [57, 0, 57], d < 58 := by decide
theorem witness_BlkDec8WritesBigEndianGroup :
    params.overflow = .truncate ∧ (7 : Nat) < 8 ∧
      digitsOf (slice (bufferOf addressA).toList (11 * 7) 11) = some [6, 16, 35, 6, 56, 42, 34, 2, 22, 27, 10] ∧
      digitsOf (slice (bufferOf addressA).toList (11 * 0) 11) = some [37, 51, 45, 43, 20, 12, 24, 49, 6, 56, 8] ∧
      digitsOf (slice (bufferOf (alteredA 87 0x30)).toList (11 * 7) 11) = none := by decide +kernel
theorem witness_BlkDec7WritesTailGroup :
    digitsOf (slice (bufferOf addressA).toList 88 10) = some [8, 31, 3, 49, 45, 54, 22, 46, 28, 56] ∧
      digitsOf (slice (bufferOf (alteredA 97 0x6c)).toList 88 10) = none := by decide +kernel
theorem witness_AccumulatorHoldsBlockValue :
    (∃ t, blkDec params 8 (holding ones 98) = .ok t) ∧ (∃ t, blkDec params 7 (holding ones 98) = .ok t) :=
  ⟨⟨_, rfl⟩, ⟨_, rfl⟩⟩
theorem witness_DecodeFailsOnForeignSymbolOnly :
    (∃ c ∈ (holding (alteredA 97 0x6c) 98).abuf.toList, digit c = none) ∧
      (∀ c ∈ (holding addressA 98).abuf.toList, digit c ≠ none) :=
  ⟨⟨0x6c, mem_of_contains (by decide +kernel), by decide⟩, all_have_digits (by decide +kernel)⟩
theorem witness_PayloadConcatenatesGroups :
    decodePayload params (List.replicate 98 0x31) = some (List.replicate 71 0) ∧ (0 : Nat) < 8 ∧ (7 : Nat) < 8 := by
  decide +kernel
theorem witness_BlockOrderDoesNotMatter :
    (List.range 9).reverse.Perm (List.range 9) ∧ (decodeAddr params (holding addressA 98)).isOk = true ∧
      (blkDecs params (List.range 9).reverse (holding addressA 98)).isOk = true ∧
      (decodeAddr params (holding (alteredA 0 0x30) 98)).isOk = false :=
  ⟨List.reverse_perm _, by decide +kernel, by decide +kernel, by decide +kernel⟩
/-- The block values at the edge of overflow (spec/95_test_vectors.md section 2.2): `jpXCZedGfVQ` and `jpXCZedGfVR`. -/
theorem witness_OverflowTruncatesOrRejects :
    let q := [0x6a, 0x70, 0x58, 0x43, 0x5a, 0x65, 0x64, 0x47, 0x66, 0x56, 0x51]
    let r := [0x6a, 0x70, 0x58, 0x43, 0x5a, 0x65, 0x64, 0x47, 0x66, 0x56, 0x52]
    blockValue (blockChars q 0) = some (2 ^ 64 - 1) ∧ blockValue (blockChars r 0) = some (2 ^ 64) ∧
      params.overflow = .truncate ∧ ({ params with overflow := .reject } : Params).overflow = .reject := by
  decide +kernel
theorem witness_BlockValueIsInjective :
    blockValue (List.replicate 11 0x31) = some 0 ∧ 2 ^ 64 - 1 < 2 ^ (8 * 8) ∧
      stripBytes 8 (2 ^ 64 - 1) = stripBytes 8 (2 ^ 64 - 1) := by decide +kernel
theorem witness_BufferViewGivesSameBytes :
    let cs := List.replicate 10 0x31 ++ [0x7a]
    blockValue cs = some 57 ∧ cs.length = 11 ∧ bufferView cs = some (List.replicate 10 0 ++ [0x39]) ∧
      (cs.drop 1).length = 10 ∧ bufferView (cs.drop 1) = some (List.replicate 9 0 ++ [0x39]) := by decide +kernel
theorem witness_PaddingFillsWholeBlocks :
    136 - (List.replicate 135 (0 : Byte)).length % 136 = 1 ∧ 136 - (List.replicate 136 (0 : Byte)).length % 136 ≠ 1 := by
  simp
theorem witness_HashOfSpendViewIsOnePermutation : (List.replicate 67 (0xff : Byte)).length = 67 := by decide
theorem witness_KeccakRoundSteps : (4 : Nat) < 5 ∧ (4 : Nat) + 5 * 0 ≠ 0 ∧ (0 : Nat) + 5 * 4 ≠ 0 ∧ (63 : Nat) < 64 := by decide
theorem witness_AbsorbAndSqueezeByteOrder :
    (List.replicate 8 (0xff : Byte)).length = 8 ∧ (List.replicate 136 (0xff : Byte)).length = 136 ∧
      ([] : List Byte).length % 136 = 0 ∧ (List.replicate 136 (0 : Byte)).length % 136 = 0 := by simp
/-- An edge that completes a RUN, one that does not, and a table with which the result differs. -/
theorem witness_ParametersActOnlyAtCompletion :
    (running ones 98 2).event = .complete ∧ (presented 98 Status.zero 0x3000).event ≠ .complete ∧
      after (stepWith (zeroParams 0 0) (running ones 98 2)) = some (98, 0x03) ∧
      after (stepWith params (running ones 98 2)) = some (98, 0x11) := by decide +kernel
theorem witness_KeccakTablesAndRhoPi : (4 : Nat) < 5 ∧ (0 : Nat) < 5 := by decide

end Sys2Proof.Tests
end

