-- ==== Sys2Proof/Proofs/Completion.lean ====
section
/-! SUPPORT. The verdict of a completing RUN: what each check decides, and that the micro-operation sequence of R90 reports what
`RESULT` of R75 computes. -/

namespace Sys2Proof.Machine

/-- The pair `(VALID, ERR)` reported for how a sequence of checks ended (R99, R126). -/
def verdict : Except Reject State → Bool × BitVec 3
  | .ok _ => (true, 0#3)
  | .error r => (false, r.code)

@[simp] theorem verdict_ok (s : State) : verdict (.ok s) = (true, 0#3) := rfl
@[simp] theorem verdict_error (r : Reject) : verdict (.error r) = (false, r.code) := rfl

theorem Status.finishRun_eq_afterRun (st : Status) (valid : Bool) (err : BitVec 3) :
    st.finishRun valid err = st.afterRun (valid, err) := rfl

/-- The status that the checks leave is the one their verdict asks for (R74 step 2). -/
theorem verifyBuffer_status_eq_verdict (p : Params) (s : State) :
    (verifyBuffer p s).status = s.status.afterRun (verdict (runMicros (runSequence p) s)) := by
  rcases verifyBuffer_cases p s with ⟨t, hrun, ⟨-, -, hstatus, -⟩, hv⟩ | ⟨r, hrun, hv⟩
  · rw [hv, hrun, State.acceptResult_status, hstatus, verdict_ok, Status.finishRun_eq_afterRun]
  · rw [hv, hrun, State.raiseReject_status, verdict_error, Status.finishRun_eq_afterRun]

@[simp] theorem typeChk_eq (s : State) : typeChk s = .ok s := rfl

/-- KINDCHK passes exactly the codes that stand for a kind (R56, R92). -/
theorem kindChk_eq (s : State) : kindChk s = if kindOf s.kreg = none then .error .inputType else .ok s := by
  simp only [kindChk, kindOf_eq_none]

theorem lenChk_eq (s : State) : lenChk s = if s.len.toNat ≠ Config.addrLen then .error .length else .ok s := rfl

/-- PFXMATCH for a recognised kind compares with that kind's entry of the table (R95, R96). -/
theorem pfxMatch_eq {s : State} {kind : NetworkKind} (h : kindOf s.kreg = some kind) (p : Params) :
    pfxMatch p s =
      if bytesEq (payPrefix s.pay.toList) (p.prefixTable kind).toList then .ok s else .error .pfxMismatch := by
  simp only [pfxMatch, pfxSel, h, Option.map_some]

theorem csumCmp_eq (s : State) :
    csumCmp s = if bytesEq (slice s.dig.toList 0 Config.checksumLen) (payChecksum s.pay.toList) then .ok s
      else .error .checksum := rfl

/-- The verdict on a decoded payload: the prefix, then the checksum of the hash taken here (R96, R97, R98). -/
theorem verdict_of_payload {s : State} {kind : NetworkKind} (h : kindOf s.kreg = some kind) (p : Params) :
    verdict (runMicros [pfxMatch p, hashCall p, csumCmp] s) =
      if ¬ bytesEq (payPrefix s.pay.toList) (p.prefixTable kind).toList then (false, Reject.pfxMismatch.code)
      else if ¬ bytesEq (slice (p.hash (paySpendView s.pay.toList)).toList 0 Config.checksumLen)
          (payChecksum s.pay.toList) then (false, Reject.checksum.code)
      else (true, 0#3) := by
  rw [runMicros_cons, pfxMatch_eq h]
  by_cases hpfx : bytesEq (payPrefix s.pay.toList) (p.prefixTable kind).toList
  · simp only [hpfx, if_true, runMicros_cons, hashCall_eq, csumCmp_eq, State.setDig_dig, State.setDig_pay]
    by_cases hsum : bytesEq (slice (p.hash (paySpendView s.pay.toList)).toList 0 Config.checksumLen)
        (payChecksum s.pay.toList)
    · simp [hsum]
    · simp [hsum]
  · simp [hpfx]

/-- The sequence of micro-operations reports `RESULT`, whatever `PAY`, `DIG` and the accumulator held before (R75, R90). -/
theorem verdict_runSequence (p : Params) (s : State) :
    verdict (runMicros (runSequence p) s) = result p s.abuf s.len s.kreg := by
  unfold runSequence result
  rw [runMicros_cons, typeChk_eq]
  simp only [runMicros_cons kindChk, kindChk_eq]
  cases hkind : kindOf s.kreg with
  | none => simp
  | some kind =>
    simp only [reduceCtorEq, if_false, runMicros_cons lenChk, lenChk_eq]
    by_cases hlen : s.len.toNat = Config.addrLen
    · simp only [hlen, ne_eq, not_true_eq_false, if_false, runMicros_cons (decodeAddr p)]
      rcases decodeAddr_cases p s with ⟨pay, t, hpay, -, ht, ⟨-, -, -, hkreg, -⟩, -, rfl⟩ | ⟨hpay, herr⟩
      · rw [hpay, ht]
        exact verdict_of_payload (hkreg ▸ hkind) p
      · rw [hpay, herr, verdict_error]
    · simp [hlen]

/-- A completed RUN shows `RESULT` of the buffer it ran on (R74 step 2, R75). -/
theorem completeRun_status (p : Params) (s : State) :
    (completeRun p s).status = s.status.afterRun (result p s.abuf s.len s.kreg) := by
  rw [completeRun, State.freeTransients_status, verifyBuffer_status_eq_verdict, verdict_runSequence]

end Sys2Proof.Machine
end

