-- ==== Sys2Proof/Proofs/Scope.lean ====
section
/-! PROOF. The parameters of spec/00_scope.md R7 and where a step reads them. -/

namespace Sys2Proof.Machine

theorem stepWith_of_complete {s : State} (h : s.event = .complete) (p : Params) :
    stepWith p s = .next (completeRun p s.popEdge) := by
  simp only [stepWith, h]

/-- Completing a RUN is the only event whose meaning reads the parameters (R7). -/
theorem stepWith_eq_of_ne_complete {s : State} (h : s.event ≠ .complete) (p p' : Params) :
    stepWith p s = stepWith p' s := by
  unfold stepWith
  cases he : s.event with
  | complete => exact absurd he h
  | reset => rfl
  | stalled => rfl
  | idle => rfl
  | reserved why => rfl
  | command i => rfl

/-- A completing edge writes the result, keeps `ABUF` and `LEN`, and consumes itself (R74 step 2, R102). -/
theorem stepWith_complete_writes_result {s : State} (h : s.event = .complete) (p : Params) :
    ∃ t : State, stepWith p s = .next t ∧ t.status = s.status.afterRun (result p s.abuf s.len s.kreg) ∧
      t.abuf = s.abuf ∧ t.len = s.len ∧ t.edges = s.edges.tail :=
  ⟨completeRun p s.popEdge, stepWith_of_complete h p, completeRun_status p s.popEdge,
    completeRun_abuf p s.popEdge, completeRun_len p s.popEdge, completeRun_edges p s.popEdge⟩

/-- The default table gives every kind the bytes `e2 8c 01` (R24, decision D24). -/
theorem params_prefixTable_toList (kind : NetworkKind) :
    (params.prefixTable kind).toList = [0xe2, 0x8c, 0x01] := by
  cases kind with
  | mainnet => rfl
  | testnet => rfl
  | stagenet => rfl

/-- Settles O59: by the event of the edge, of which only a completion reads the parameters. -/
theorem parametersActOnlyAtCompletion : Obligations.ParametersActOnlyAtCompletion := by
  unfold Obligations.ParametersActOnlyAtCompletion
  have hstep : ∀ s : State, step s = stepWith params s := fun s => (stepWith_params s).symm
  have hother : ∀ (p p' : Params) (s : State), s.event ≠ .complete → stepWith p s = stepWith p' s :=
    fun p p' _ h => stepWith_eq_of_ne_complete h p p'
  exact ⟨hstep, hother, fun p _ h => stepWith_complete_writes_result h p, params_prefixTable_toList, rfl, rfl⟩

end Sys2Proof.Machine
end

section
/-! PROOF. The registers of spec/10_state.md: what every edge does to `ABUF`, `LEN` and `STATUS`, and the invariants that
relate them to the string pushed and to the last RUN. -/

namespace Sys2Proof.Machine

/-! ## The values `STATUS` takes -/

@[simp] theorem Status.afterRun_done (st : Status) (r : Bool × BitVec 3) : (st.afterRun r).done = true := rfl
@[simp] theorem Status.afterRun_valid (st : Status) (r : Bool × BitVec 3) : (st.afterRun r).valid = r.1 := rfl
@[simp] theorem Status.afterRun_err (st : Status) (r : Bool × BitVec 3) : (st.afterRun r).err = r.2 := rfl
@[simp] theorem Status.afterRun_busy (st : Status) (r : Bool × BitVec 3) : (st.afterRun r).busy = false := rfl
@[simp] theorem Status.afterRun_cmderr (st : Status) (r : Bool × BitVec 3) :
    (st.afterRun r).cmderr = st.cmderr := rfl

/-- Of the status before a RUN, only `CMDERR` is in the status after it (R19, R74). -/
theorem Status.afterRun_congr {st st' : Status} (h : st.cmderr = st'.cmderr) (r : Bool × BitVec 3) :
    st.afterRun r = st'.afterRun r := by
  simp only [Status.afterRun, h]

/-- The code of a reject is one of 1..5 (R60, R120). -/
theorem Reject.code_bounds (r : Reject) : 1 ≤ r.code.toNat ∧ r.code.toNat ≤ 5 := by
  cases r <;> decide

theorem verdict_cases (o : Except Reject State) :
    verdict o = (true, 0#3) ∨ ∃ r : Reject, verdict o = (false, r.code) := by
  cases o with
  | ok s => exact .inl rfl
  | error r => exact .inr ⟨r, rfl⟩

/-- All that `RESULT` can be: acceptance without a code, or one of the five rejects (R75, R101). -/
theorem result_cases (p : Params) (abuf : Vector Byte 98) (len : BitVec 7) (k : Byte) :
    result p abuf len k = (true, 0#3) ∨ ∃ r : Reject, result p abuf len k = (false, r.code) := by
  have hrun := verdict_runSequence p { State.reset with abuf := abuf, len := len, kreg := k }
  rw [← hrun]
  exact verdict_cases _

/-- A status that shows no result is legal, with a RUN in progress or without (R20). -/
theorem Status.legal_of_no_result {st : Status} (hdone : st.done = false) (hvalid : st.valid = false)
    (herr : st.err = 0#3) : st.Legal := by
  simp [Status.Legal, hdone, hvalid, herr]

theorem Status.zero_legal : Status.zero.Legal := Status.legal_of_no_result rfl rfl rfl
theorem Status.clearResult_legal (st : Status) : st.clearResult.Legal := Status.legal_of_no_result rfl rfl rfl
theorem Status.startRun_legal (st : Status) : st.startRun.Legal := Status.legal_of_no_result rfl rfl rfl

/-- The sticky flag takes no part in the legal combinations (R19, R20). -/
theorem Status.setCmderr_legal {st : Status} (h : st.Legal) : st.setCmderr.Legal := h

/-- Whatever `RESULT` is, the status after the RUN is legal (R20, R74). -/
theorem Status.afterRun_result_legal (st : Status) (p : Params) (abuf : Vector Byte 98) (len : BitVec 7) (k : Byte) :
    (st.afterRun (result p abuf len k)).Legal := by
  rcases result_cases p abuf len k with h | ⟨r, h⟩
  · simp [Status.Legal, h]
  · simp [Status.Legal, h, r.code_bounds]

/-- The low six bits of `status[7:0]`, each field at its weight (R20). -/
theorem Status.pack_low_toNat (st : Status) :
    (st.pack.extractLsb' 0 6).toNat =
      st.done.toNat + 2 * st.valid.toNat + 4 * st.err.toNat + 32 * st.busy.toNat := by
  obtain ⟨done, valid, err, busy, cmderr⟩ := st
  revert done valid err busy cmderr
  decide

/-- Each bit of `status[7:0]` is the field of the layout; bit 7 reads 0 (R19, R20). -/
theorem Status.pack_layout (st : Status) :
    st.pack.getLsbD 0 = st.done ∧ st.pack.getLsbD 1 = st.valid ∧ st.pack.extractLsb' 2 3 = st.err ∧
      st.pack.getLsbD 5 = st.busy ∧ st.pack.getLsbD 6 = st.cmderr ∧ st.pack.getLsbD 7 = false := by
  obtain ⟨done, valid, err, busy, cmderr⟩ := st
  revert done valid err busy cmderr
  decide

/-- `status[7]` reads 0 (R19). -/
theorem Status.pack_bit_seven (st : Status) : st.pack.getLsbD 7 = false := by
  obtain ⟨-, -, -, -, -, hseven⟩ := st.pack_layout
  exact hseven

/-- A legal status is idle, running, accepted, or rejected with one of the five codes (R20). -/
theorem Status.Legal.pack_low {st : Status} (h : st.Legal) :
    (st.pack.extractLsb' 0 6).toNat ∈ [0x00, 0x20, 0x03, 0x05, 0x09, 0x0d, 0x11, 0x15] := by
  obtain ⟨hundone, hvalid, hreject, hbusy⟩ := h
  rw [Status.pack_low_toNat]
  cases hd : st.done with
  | false =>
    obtain ⟨hv, he⟩ := hundone hd
    cases hb : st.busy <;> simp [hv, he]
  | true =>
    have hb : st.busy = false := Bool.eq_false_iff.2 fun hb => by simp [hbusy hb] at hd
    cases hv : st.valid with
    | true => simp [hb, (hvalid hv).2]
    | false =>
      have herr := hreject hd hv
      simp only [hb, Bool.toNat_true, Bool.toNat_false, List.mem_cons, List.not_mem_nil, or_false]
      omega

/-! ## What the completion of a RUN leaves -/

/-- Outside a RUN the transients keep nothing of what they held (R27, R152). -/
theorem State.freeTransients_congr {s t : State} (habuf : s.abuf = t.abuf) (hlen : s.len = t.len)
    (hstatus : s.status = t.status) (hedges : s.edges = t.edges) (hfree : s.freeIdx = t.freeIdx) :
    s.freeTransients = t.freeTransients := by
  apply State.ext_fields <;> simp [habuf, hlen, hstatus, hedges, hfree]

/-- A completed RUN writes the result and frees the transients, and does nothing else (R74 step 2, R102). -/
theorem completeRun_eq (p : Params) (s : State) :
    completeRun p s = (s.setStatus (s.status.afterRun (result p s.abuf s.len s.kreg))).freeTransients := by
  have hstatus : (verifyBuffer p s).status = s.status.afterRun (result p s.abuf s.len s.kreg) := by
    rw [verifyBuffer_status_eq_verdict, verdict_runSequence]
  rcases verifyBuffer_cases p s with ⟨t, -, ⟨habuf, hlen, -, -, -, hedges, hfree⟩, hv⟩ | ⟨r, -, hv⟩ <;>
    rw [hv] at hstatus <;> rw [completeRun, hv]
  · exact State.freeTransients_congr habuf hlen hstatus hedges hfree
  · exact State.freeTransients_congr rfl rfl hstatus rfl rfl

/-- A RUN with kind `k` shows `RESULT` of the buffer it was accepted on, whatever the status was (R28, R74). -/
theorem completeRun_startRun_status (p : Params) (s : State) (k : Byte) :
    (completeRun p (s.startRun k)).status = s.status.afterRun (result p s.abuf s.len k) := by
  rw [completeRun_status]
  exact Status.afterRun_congr rfl _

/-- A RUN after a RUN shows what it would have shown in the first one's place (R28). -/
theorem completeRun_startRun_again (p : Params) (s : State) (k k' : Byte) :
    (completeRun p ((completeRun p (s.startRun k)).startRun k')).status = (completeRun p (s.startRun k')).status := by
  simp only [completeRun_startRun_status, completeRun_abuf, completeRun_len, State.startRun_abuf, State.startRun_len]
  exact Status.afterRun_congr rfl _

/-- Completing a RUN carries `CMDERR` over and computes nothing from it (R19). -/
theorem completeRun_with_cmderr (p : Params) (s : State) (b : Bool) :
    completeRun p { s with status := { s.status with cmderr := b } } =
      { completeRun p s with status := { (completeRun p s).status with cmderr := b } } := by
  rw [completeRun_eq, completeRun_eq]
  rfl

/-! ## `DONE = 1` is about the current buffer -/

theorem ResultDescribesBuffer.of_not_done {s : State} (h : s.status.done = false) : ResultDescribesBuffer s := by
  intro hdone
  rw [h] at hdone
  cases hdone

/-- The invariant reads `ABUF`, `LEN`, `DONE`, `VALID` and `ERR` only. -/
theorem ResultDescribesBuffer.congr {s t : State} (h : ResultDescribesBuffer s) (habuf : t.abuf = s.abuf)
    (hlen : t.len = s.len) (hdone : t.status.done = s.status.done) (hvalid : t.status.valid = s.status.valid)
    (herr : t.status.err = s.status.err) : ResultDescribesBuffer t := by
  simpa only [ResultDescribesBuffer, habuf, hlen, hdone, hvalid, herr] using h

/-- A completed RUN describes the buffer by the kind it latched (R15, R16). -/
theorem ResultDescribesBuffer.completeRun (s : State) : ResultDescribesBuffer (completeRun params s) := by
  intro _
  refine ⟨s.kreg, ?_⟩
  rw [completeRun_status, completeRun_abuf, completeRun_len]
  rfl

/-! ## The buffer holds the string pushed -/

theorem HoldsString.nil_of_len_zero {s : State} (h : s.len = 0#7) : HoldsString s [] := by
  simp [HoldsString, h]

/-- Holding a string is about `ABUF` and `LEN` only. -/
theorem HoldsString.congr {s t : State} {str : List Byte} (h : HoldsString s str) (habuf : t.abuf = s.abuf)
    (hlen : t.len = s.len) : HoldsString t str := by
  simpa only [HoldsString, habuf, hlen] using h

/-- A position of the string within the buffer is before `LEN`, which saturates past the last entry (R12, R13). -/
theorem HoldsString.lt_len {s : State} {str : List Byte} (h : HoldsString s str) {i : Nat} (hi : i < str.length)
    (hbuf : i < 98) : i < s.len.toNat := by
  have hlen : s.len.toNat = min str.length 127 := h.1
  omega

/-- PUSH appends its symbol to the string held, and drops it only past position 97 (R11, R13, R72). -/
theorem HoldsString.push {s : State} {str : List Byte} (h : HoldsString s str) (c : Byte) :
    HoldsString (s.storeChar c).advanceLen.clearResult (str ++ [c]) := by
  have hlen : s.len.toNat = min str.length 127 := h.1
  have hentries := h.2
  refine ⟨?_, fun i hi d hd => ?_⟩
  · simp only [State.clearResult_len, State.advanceLen_len, State.storeChar_len, lenSucc_toNat, hlen,
      List.length_append, List.length_singleton, Config.lenMax]
    omega
  · have hbuf : i < 98 := hi
    rw [State.clearResult_abuf, State.advanceLen_abuf, State.storeChar_getElem?]
    rcases Nat.lt_trichotomy i str.length with hold | hnew | hpast
    · rw [List.getElem?_append_left hold] at hd
      have hbefore := h.lt_len hold hbuf
      rw [if_neg (by omega)]
      exact hentries i hi d hd
    · have hpos : i = s.len.toNat := by omega
      rw [hnew, List.getElem?_concat_length] at hd
      rw [if_pos ⟨hpos, by omega⟩, hd]
    · rw [List.getElem?_eq_none (by simp; omega)] at hd
      cases hd

/-! ## What one edge does, with a name for each event -/

/-- `EdgeEffect p s e t`: the event `e` takes the state `s` to `t`, with the parameters `p`. -/
inductive EdgeEffect (p : Params) (s : State) : EdgeEvent → State → Prop where
  | reset : EdgeEffect p s .reset s.popEdge.resetBlock
  | stalled : EdgeEffect p s .stalled s.popEdge
  | complete : EdgeEffect p s .complete (completeRun p s.popEdge)
  | idle : EdgeEffect p s .idle s.popEdge
  | reserved (why : ReservedWord) : EdgeEffect p s (.reserved why) s.popEdge.acceptReserved
  | nop : EdgeEffect p s (.command .nop) s.popEdge
  | clr : EdgeEffect p s (.command .clr) s.popEdge.zeroLen.clearResult
  | push (c : Byte) : EdgeEffect p s (.command (.push c)) (s.popEdge.storeChar c).advanceLen.clearResult
  | run (k : Byte) : EdgeEffect p s (.command (.run k)) (s.popEdge.startRun k)

/-- A step has the effect of its edge's event. -/
theorem edgeEffect_of_stepWith {p : Params} {s t : State} (h : stepWith p s = .next t) : EdgeEffect p s s.event t := by
  rcases stepWith_cases h with ⟨he, rfl⟩ | ⟨he, rfl⟩ | ⟨he, rfl⟩ | ⟨he, rfl⟩ | ⟨why, he, rfl⟩ | ⟨he, rfl⟩ |
    ⟨he, rfl⟩ | ⟨c, he, rfl⟩ | ⟨k, he, rfl⟩ <;> rw [he] <;> constructor

theorem edgeEffect_of_step {s t : State} (h : step s = .next t) : EdgeEffect params s s.event t :=
  edgeEffect_of_stepWith h

/-! ## The invariants of every step -/

/-- Settles O24: an edge leaves the status alone, clears the result, sets only `CMDERR`, or writes a `RESULT`. -/
theorem stepKeepsStatusLegal : Obligations.StepKeepsStatusLegal := by
  unfold Obligations.StepKeepsStatusLegal
  intro s t hlegal hstep
  have heffect := edgeEffect_of_step hstep
  generalize s.event = e at heffect
  cases heffect with
  | reset => exact Status.zero_legal
  | complete =>
    rw [completeRun_status]
    exact Status.afterRun_result_legal _ _ _ _ _
  | reserved why => exact Status.setCmderr_legal hlegal
  | stalled | idle | nop => exact hlegal
  | clr | push c => exact Status.clearResult_legal _
  | run k => exact Status.startRun_legal _

/-- Settles O26: an edge that changes `ABUF` or `LEN`, or accepts a RUN, clears `DONE`; a completion writes the result
of the buffer; the others keep buffer and result. -/
theorem stepKeepsResultDescribesBuffer : Obligations.StepKeepsResultDescribesBuffer := by
  unfold Obligations.StepKeepsResultDescribesBuffer
  intro s t hinv hstep
  have heffect := edgeEffect_of_step hstep
  generalize s.event = e at heffect
  cases heffect with
  | reset | clr | push c | run k => exact .of_not_done rfl
  | complete => exact .completeRun _
  | stalled | idle | nop | reserved why => exact hinv.congr rfl rfl rfl rfl rfl

/-- Settles O28: PUSH appends, CLR and reset empty the string by `LEN = 0`, and no other edge writes `ABUF` or `LEN`. -/
theorem stepTracksPushedString : Obligations.StepTracksPushedString := by
  unfold Obligations.StepTracksPushedString
  intro s t str hheld hstep
  have hkept : HoldsString s.popEdge str := hheld.congr rfl rfl
  have heffect := edgeEffect_of_step hstep
  generalize s.event = e at heffect ⊢
  cases heffect with
  | reset | clr => exact .nil_of_len_zero rfl
  | push c => exact hkept.push c
  | complete => exact hkept.congr (completeRun_abuf _ _) (completeRun_len _ _)
  | stalled | idle | nop | reserved why | run k => exact hkept.congr rfl rfl

/-! ## The registers after one edge, and after a RUN -/

/-- Settles O19: a RUN reads `ABUF`, `LEN` and its own kind, and writes neither of the first two. -/
theorem repeatedRunGivesSameResult : Obligations.RepeatedRunGivesSameResult := by
  unfold Obligations.RepeatedRunGivesSameResult
  intro s k k'
  exact ⟨completeRun_startRun_again params s k k, completeRun_startRun_again params s k k',
    completeRun_abuf params (s.startRun k), completeRun_len params (s.startRun k)⟩

/-- Settles O20, by the event of the edge. -/
theorem lenFollowsEdgeEvent : Obligations.LenFollowsEdgeEvent := by
  unfold Obligations.LenFollowsEdgeEvent
  intro s t hstep
  have heffect := edgeEffect_of_step hstep
  generalize s.event = e at heffect ⊢
  cases heffect with
  | push c => simp
  | complete => exact completeRun_len params s.popEdge
  | reset | clr | stalled | idle | nop | reserved why | run k => rfl

/-- Settles O21: of the edges beside reset, only a PUSH stores a symbol. -/
theorem abufWrittenOnlyByPush : Obligations.AbufWrittenOnlyByPush := by
  unfold Obligations.AbufWrittenOnlyByPush
  intro s t hstep hreset hpush
  have heffect := edgeEffect_of_step hstep
  generalize s.event = e at heffect hreset hpush
  cases heffect with
  | reset => exact absurd rfl hreset
  | push c => exact absurd rfl (hpush c)
  | complete => exact completeRun_abuf params s.popEdge
  | clr | stalled | idle | nop | reserved why | run k => rfl

/-- Settles O22: of the events only reset and a reserved word write `CMDERR`, and a RUN carries it over. -/
theorem cmderrIsSticky : Obligations.CmderrIsSticky := by
  unfold Obligations.CmderrIsSticky
  refine ⟨fun s t hstep => ?_, completeRun_with_cmderr params, Status.pack_bit_seven⟩
  have heffect := edgeEffect_of_step hstep
  generalize s.event = e at heffect ⊢
  cases heffect with
  | complete => exact completeRun_cmderr params s.popEdge
  | push c => simp
  | reset | reserved why | clr | stalled | idle | nop | run k => rfl

/-! ## The packed status, and the state right after reset -/

/-- Settles O12: each register of `State.reset` by evaluation. -/
theorem resetStateValues : Obligations.ResetStateValues :=
  ⟨rfl, rfl, rfl, rfl, rfl, rfl, rfl, rfl⟩

/-- Settles O23: the layout bit by bit, and the four kinds of legal status. -/
theorem statusPackedLayout : Obligations.StatusPackedLayout :=
  ⟨Status.pack_layout, fun _ => Status.Legal.pack_low⟩

/-- Settles O25: `STATUS = 0x00` shows no result. -/
theorem resetStatusLegal : Obligations.ResetStatusLegal := Status.zero_legal

/-- Settles O27: `DONE = 0`, so there is no result to describe. -/
theorem resetResultDescribesBuffer : Obligations.ResetResultDescribesBuffer :=
  ⟨rfl, .of_not_done rfl⟩

/-- Settles O29: `LEN = 0`. -/
theorem resetHoldsEmptyString : Obligations.ResetHoldsEmptyString := .nil_of_len_zero rfl

end Sys2Proof.Machine
end

section
/-! PROOF. The ports of spec/20_memory.md: which edges accept a word, when the block is ready for one, and where each block's
bytes stand in the payload. -/

namespace Sys2Proof.Machine

/-! ## The event of an edge -/

/-- An accepted word is a command or reserved, as the decoder says (R51, R62). -/
theorem acceptWord_cases (w : CmdWord) :
    (∃ i, decode w = .ok i ∧ acceptWord w = .command i) ∨
      ∃ why, decode w = .error why ∧ acceptWord w = .reserved why := by
  unfold acceptWord
  cases hw : decode w with
  | ok i => exact .inl ⟨i, rfl, rfl⟩
  | error why => exact .inr ⟨why, rfl, rfl⟩

theorem acceptWord_of_decode {w : CmdWord} {i : Instr} (h : decode w = .ok i) : acceptWord w = .command i := by
  simp only [acceptWord, h]

/-- Beside reset, the edges of a RUN in progress are those on which it goes on or completes (R41, R140). -/
theorem busy_iff_event {s : State} (hreset : s.event ≠ .reset) :
    s.status.busy = true ↔ s.event = .stalled ∨ s.event = .complete := by
  have hrst : s.nextEdge.rst = false := Bool.eq_false_iff.2 fun h => hreset (event_eq_reset h)
  cases hbusy : s.status.busy with
  | true =>
    cases hstall : s.nextEdge.stall with
    | true => simp [event_eq_stalled hbusy hrst hstall]
    | false => simp [event_eq_complete hbusy hrst hstall]
  | false =>
    cases hvalid : s.nextEdge.cmdValid with
    | true =>
      rw [event_eq_acceptWord hbusy hrst hvalid]
      rcases acceptWord_cases s.nextEdge.cmd with ⟨i, -, h⟩ | ⟨why, -, h⟩ <;> simp [h]
    | false => simp [event_eq_idle hbusy hrst hvalid]

/-- Without `cmd_valid`, or during a RUN, the word at the port has no part in the event (R40, R41). -/
theorem edgeEvent_cmd_irrelevant {busy : Bool} {e : Edge} (h : e.cmdValid = false ∨ busy = true) (w : CmdWord) :
    edgeEvent busy { e with cmd := w } = edgeEvent busy e := by
  rcases h with hvalid | rfl
  · simp [edgeEvent, hvalid]
  · rfl

theorem State.busy_of_not_ready {s : State} (h : s.cmdReady = false) : s.status.busy = true := by
  simpa [State.cmdReady] using h

theorem State.not_busy_of_ready {s : State} (h : s.cmdReady = true) : s.status.busy = false := by
  simpa [State.cmdReady] using h

/-! ## One step on an edge -/

/-- A step knows its edge only through the event and what is left once the edge has passed. -/
theorem stepWith_congr {s t : State} (hevent : s.event = t.event) (hpop : s.popEdge = t.popEdge) (p : Params) :
    stepWith p s = stepWith p t := by
  simp only [stepWith, hevent, hpop]

theorem stepWith_of_idle {s : State} (h : s.event = .idle) (p : Params) : stepWith p s = .next s.popEdge := by
  simp only [stepWith, h]

theorem stepWith_of_command {s : State} {i : Instr} (h : s.event = .command i) (p : Params) :
    stepWith p s = exec i s.popEdge := by
  simp only [stepWith, h]

/-- A word that is accepted and decodes is a command on its edge (R40). -/
theorem AcceptsNext.event_eq_command {s : State} {i : Instr} (h : AcceptsNext s) (hdecode : decode s.nextEdge.cmd = .ok i) :
    s.event = .command i := by
  obtain ⟨hrst, hready, hvalid⟩ := h
  rw [event_eq_acceptWord (State.not_busy_of_ready hready) hrst hvalid, acceptWord_of_decode hdecode]

theorem AcceptsNext.step_eq_exec {s : State} {i : Instr} (h : AcceptsNext s) (hdecode : decode s.nextEdge.cmd = .ok i) :
    step s = exec i s.popEdge :=
  stepWith_of_command (h.event_eq_command hdecode) params

theorem State.presentNext_acceptsNext (s : State) (w : CmdWord) : AcceptsNext (s.presentNext w) := ⟨rfl, rfl, rfl⟩

/-- Settles O6: an accepted word that decodes is a command event, and `withFetchWord` presents an accepted word. -/
theorem stepRunsDecodedCommand : Obligations.StepRunsDecodedCommand := by
  unfold Obligations.StepRunsDecodedCommand
  exact ⟨fun s i haccept hdecode _ => haccept.step_eq_exec hdecode,
    fun s nbits w i hdecode => (s.presentNext_acceptsNext (tableWord nbits w)).step_eq_exec hdecode⟩

/-- Settles O7: the word reaches a step through the event of its edge, and an unaccepted one has no part in it. -/
theorem unacceptedWordIgnored : Obligations.UnacceptedWordIgnored := by
  unfold Obligations.UnacceptedWordIgnored
  refine ⟨fun s e es w hignored => ?_, fun s hrst hready hvalid => ?_⟩
  · have hevent : State.event { s with edges := { e with cmd := w } :: es } = State.event { s with edges := e :: es } :=
      edgeEvent_cmd_irrelevant (hignored.imp_right State.busy_of_not_ready) w
    exact stepWith_congr hevent rfl params
  · exact stepWith_of_idle (event_eq_idle (State.not_busy_of_ready hready) hrst hvalid) params

/-- Settles O8: RUN sets `BUSY`, reset and a completion clear it, and every other edge keeps it, which is 1 among these on
a stalled edge only. -/
theorem cmdReadyLowOnlyDuringRun : Obligations.CmdReadyLowOnlyDuringRun := by
  unfold Obligations.CmdReadyLowOnlyDuringRun
  refine ⟨rfl, fun _ => rfl, fun s t hstep => ?_⟩
  have heffect := edgeEffect_of_step hstep
  have hbusy := busy_iff_event (s := s)
  generalize s.event = e at heffect hbusy ⊢
  cases heffect with
  | reset | complete | run k => simp [State.cmdReady]
  | stalled | idle | nop | clr | push c | reserved why => simpa [State.cmdReady] using hbusy

/-- Settles O10: the edge passes before its event acts, and no event touches the edges to come. -/
theorem stepConsumesOneEdge : Obligations.StepConsumesOneEdge := by
  unfold Obligations.StepConsumesOneEdge
  intro s t hstep
  have heffect := edgeEffect_of_step hstep
  generalize s.event = e at heffect
  cases heffect with
  | complete => exact completeRun_edges params s.popEdge
  | push c => simp
  | reset | clr | stalled | idle | nop | reserved why | run k => rfl

/-! ## The payload and its groups -/

/-- A slice that starts after the first part and is as long as the second is the second. -/
theorem slice_append_middle {α : Type} (xs ys zs : List α) : slice (xs ++ (ys ++ zs)) xs.length ys.length = ys := by
  simp [slice]

/-- The group of a block has the block's number of bytes (R38, R82, R83). -/
theorem decodeBlock_length {p : Params} {addr g : List Byte} {b : Nat} (h : decodeBlock p addr b = some g) :
    g.length = blockBytes b := by
  unfold decodeBlock at h
  split at h
  · cases h
  · split at h
    · cases h; exact stripBytes_length _ _
    · cases h

/-- The blocks listed decode exactly when the first and the rest do (R84). -/
theorem decodeBlocks_cons_eq_some {p : Params} {addr gs : List Byte} {b : Nat} {bs : List Nat} :
    decodeBlocks p addr (b :: bs) = some gs ↔
      ∃ g gs', decodeBlock p addr b = some g ∧ decodeBlocks p addr bs = some gs' ∧ gs = g ++ gs' := by
  simp only [decodeBlocks]
  cases decodeBlock p addr b <;> cases decodeBlocks p addr bs <;> simp [eq_comm]

/-- The bytes of two runs of blocks stand one after the other (R84). -/
theorem decodeBlocks_append {p : Params} {addr gs : List Byte} {bs bs' : List Nat}
    (h : decodeBlocks p addr (bs ++ bs') = some gs) :
    ∃ g g', decodeBlocks p addr bs = some g ∧ decodeBlocks p addr bs' = some g' ∧ gs = g ++ g' := by
  induction bs generalizing gs with
  | nil => exact ⟨[], gs, rfl, h, rfl⟩
  | cons b bs ih =>
    obtain ⟨g, rest, hg, hrest, rfl⟩ := decodeBlocks_cons_eq_some.1 h
    obtain ⟨g', g'', hg', hg'', rfl⟩ := ih hrest
    exact ⟨g ++ g', g'', decodeBlocks_cons_eq_some.2 ⟨g, g', hg, hg', rfl⟩, hg'', (List.append_assoc g g' g'').symm⟩

/-- The length of the blocks listed is the sum of what R38 gives each. -/
theorem decodeBlocks_length {p : Params} {addr gs : List Byte} {bs : List Nat} (h : decodeBlocks p addr bs = some gs) :
    gs.length = (bs.map blockBytes).sum := by
  induction bs generalizing gs with
  | nil => cases h; rfl
  | cons b bs ih =>
    obtain ⟨g, gs', hg, hgs, rfl⟩ := decodeBlocks_cons_eq_some.1 h
    simp [decodeBlock_length hg, ih hgs]

/-- The full blocks before block `b` have eight bytes each (R38). -/
theorem sum_blockBytes_range {b : Nat} (hb : b ≤ 8) : ((List.range b).map blockBytes).sum = blockOffset b := by
  revert b; decide

theorem decodePayload_length {p : Params} {addr pay : List Byte} (h : decodePayload p addr = some pay) :
    pay.length = 71 :=
  decodeBlocks_length h

/-- Each block's group is the slice of the payload at the block's own offset (R38, R84). -/
theorem decodeBlock_of_decodePayload {p : Params} {addr pay : List Byte} (h : decodePayload p addr = some pay)
    {b : Nat} (hb : b ≤ 8) : decodeBlock p addr b = some (slice pay (blockOffset b) (blockBytes b)) := by
  have hsplit : List.range (Config.fullBlocks + 1) = List.range b ++ b :: List.range' (b + 1) (8 - b) := by
    revert b; decide
  rw [decodePayload, hsplit] at h
  obtain ⟨before, rest, hbefore, hrest, rfl⟩ := decodeBlocks_append h
  obtain ⟨g, after, hg, -, rfl⟩ := decodeBlocks_cons_eq_some.1 hrest
  rw [hg, ← sum_blockBytes_range hb, ← decodeBlocks_length hbefore, ← decodeBlock_length hg, slice_append_middle]

/-- Settles O49: the blocks before block `b` fill the payload up to eight times `b`, and the next group is its own. -/
theorem payloadConcatenatesGroups : Obligations.PayloadConcatenatesGroups := by
  unfold Obligations.PayloadConcatenatesGroups
  intro p addr pay hpay
  refine ⟨decodePayload_length hpay, fun b hb => ?_, decodeBlock_of_decodePayload hpay (Nat.le_refl 8)⟩
  have hgroup := decodeBlock_of_decodePayload hpay (Nat.le_of_lt hb)
  rwa [blockBytes_eq, if_pos hb] at hgroup

end Sys2Proof.Machine
end

section
/-! PROOF. The encoding of spec/30_encoding.md: the decoder and the encoder undo each other, the words they relate are those of
the opcode map, and every other word is reserved. -/

namespace Sys2Proof.Machine

/-! ## Decoding and encoding -/

/-- No operand is reserved for its instruction (R51, R64). -/
theorem decode_encode (i : Instr) : decode (encode i) = .ok i := by
  cases i with
  | nop => simp [decode, encode]
  | clr => simp [decode, encode]
  | push c => simp [decode, encode]
  | run k => simp [decode, encode]

theorem encode_injective : Function.Injective encode := by
  intro i j h
  have hij := congrArg decode h
  rw [decode_encode, decode_encode] at hij
  exact Except.ok.inj hij

/-- A word with a clear `RSV` field is what its other two fields encode (R50). -/
theorem packWord_of_fields {w : CmdWord} {op : BitVec 4} {arg : Byte} (hop : w.op = op) (hrsv : w.rsv = 0#4)
    (harg : w.arg = arg) : packWord op 0#4 arg = w := by
  rw [← hop, ← hrsv, ← harg, packWord_fields]

/-- All the decoder can do: answer the instruction the word encodes, or name the case of R62 the word falls under. -/
theorem decode_cases (w : CmdWord) :
    (∃ i, decode w = .ok i ∧ encode i = w) ∨ ∃ why, decode w = .error why ∧ IsReserved w := by
  unfold decode
  split_ifs with hop hrsv hnop harg hclr harg hpush
  · exact .inr ⟨_, rfl, .inl hop⟩
  · exact .inr ⟨_, rfl, .inr (.inl hrsv)⟩
  · exact .inl ⟨_, rfl, packWord_of_fields hnop (not_not.1 hrsv) harg⟩
  · exact .inr ⟨_, rfl, .inr (.inr ⟨by simp [hnop], harg⟩)⟩
  · exact .inl ⟨_, rfl, packWord_of_fields hclr (not_not.1 hrsv) harg⟩
  · exact .inr ⟨_, rfl, .inr (.inr ⟨by simp [hclr], harg⟩)⟩
  · exact .inl ⟨_, rfl, packWord_of_fields hpush (not_not.1 hrsv) rfl⟩
  · have hrun : w.op = 0x3#4 := by bv_omega
    exact .inl ⟨_, rfl, packWord_of_fields hrun (not_not.1 hrsv) rfl⟩

/-- The decoder and the encoder are one relation (R51). -/
theorem decode_eq_ok_iff {w : CmdWord} {i : Instr} : decode w = .ok i ↔ encode i = w := by
  constructor
  · intro h
    rcases decode_cases w with ⟨j, hj, hw⟩ | ⟨why, herr, -⟩
    · cases hj.symm.trans h
      exact hw
    · cases herr.symm.trans h
  · rintro rfl
    exact decode_encode i

theorem not_isReserved_encode (i : Instr) : ¬ IsReserved (encode i) := by
  cases i <;> simp [IsReserved, encode]

/-- What the decoder refuses is what R62 calls reserved. -/
theorem exists_decode_eq_error_iff {w : CmdWord} : (∃ why, decode w = .error why) ↔ IsReserved w := by
  rcases decode_cases w with ⟨i, hi, rfl⟩ | ⟨why, hwhy, hres⟩
  · simp [hi, not_isReserved_encode]
  · simp [hwhy, hres]

/-- A word is reserved when no instruction encodes to it (R51, R62). -/
theorem isReserved_iff_not_exists_encode {w : CmdWord} : IsReserved w ↔ ¬ ∃ i, encode i = w := by
  rcases decode_cases w with ⟨i, -, rfl⟩ | ⟨why, hwhy, hres⟩
  · simp [not_isReserved_encode]
  · simp [hres, ← decode_eq_ok_iff, hwhy]

/-- Settles O1. -/
theorem decodeOfEncode : Obligations.DecodeOfEncode := fun i _ => decode_encode i

/-- Settles O2, by the branch the decoder takes. -/
theorem encodeOfDecode : Obligations.EncodeOfDecode := fun _ _ => decode_eq_ok_iff.1

/-- Settles O5: each command word is the encoding of its instruction, and each reserved word fails at its field. -/
theorem specWordsDecode : Obligations.SpecWordsDecode :=
  ⟨decode_encode .nop, decode_encode .clr, decode_encode (.push 0x65), decode_encode (.push 0xff), decode_encode (.run 0),
    decode_encode (.run 2), decode_encode (.run 255), rfl, rfl, rfl, rfl⟩

/-! ## The opcode map -/

/-- The low mask of the map reads the operand (R50, R51). -/
theorem and_00ff_toNat (w : CmdWord) : (w &&& 0x00ff).toNat = w.arg.toNat := by
  rw [CmdWord.arg_toNat, BitVec.toNat_and]
  exact Nat.and_two_pow_sub_one_eq_mod w.toNat 8

/-- A mask acts on each field by itself (R50). -/
theorem packWord_and (a b a' b' : BitVec 4) (c c' : Byte) :
    packWord a b c &&& packWord a' b' c' = packWord (a &&& a') (b &&& b') (c &&& c') :=
  BitVec.and_append.trans (congrArg (· ++ (c &&& c')) BitVec.and_append)

/-- The high mask of the map keeps `OP` and `RSV` and clears `ARG` (R50, R51). -/
theorem and_ff00_eq (w : CmdWord) : w &&& 0xff00 = packWord w.op w.rsv 0#8 := by
  have hmask : (0xff00 : CmdWord) = packWord 0xf#4 0xf#4 0#8 := rfl
  have hall : ∀ x : BitVec 4, x &&& 0xf#4 = x := by decide
  calc w &&& 0xff00 = packWord w.op w.rsv w.arg &&& packWord 0xf#4 0xf#4 0#8 := by rw [packWord_fields, hmask]
    _ = packWord w.op w.rsv 0#8 := by
      rw [packWord_and, hall, hall, BitVec.and_zero]

/-- A command with an operand is the words that carry its `OP` under the high mask, one for each operand (R51). -/
theorem packWord_eq_iff_masked {op : BitVec 4} {arg : Byte} {w : CmdWord} :
    packWord op 0#4 arg = w ↔ w &&& 0xff00 = packWord op 0#4 0#8 ∧ arg = w.arg := by
  constructor
  · rintro rfl
    exact ⟨by rw [and_ff00_eq, packWord_op, packWord_rsv], (packWord_arg op 0#4 arg).symm⟩
  · rintro ⟨hmask, rfl⟩
    rw [and_ff00_eq] at hmask
    have hop := congrArg CmdWord.op hmask
    have hrsv := congrArg CmdWord.rsv hmask
    simp only [packWord_op, packWord_rsv] at hop hrsv
    exact packWord_of_fields hop hrsv rfl

theorem encode_push_eq_iff {c : Byte} {w : CmdWord} :
    encode (.push c) = w ↔ w &&& 0xff00 = 0x2000 ∧ c = w.arg := packWord_eq_iff_masked

theorem encode_run_eq_iff {k : Byte} {w : CmdWord} :
    encode (.run k) = w ↔ w &&& 0xff00 = 0x3000 ∧ k = w.arg := packWord_eq_iff_masked

/-- The mask of NOP and CLR keeps the word. -/
theorem and_ffff_eq (w : CmdWord) : w &&& 0xffff = w := BitVec.and_allOnes

/-- The row of the opcode map an instruction belongs to (R51). -/
def instrRow : Instr → OpRow
  | .nop => OpRow.nop
  | .clr => OpRow.clr
  | .push _ => OpRow.push
  | .run _ => OpRow.run

theorem instrRow_mem (i : Instr) : instrRow i ∈ opRows := by
  cases i <;> simp [instrRow, opRows]

/-- A row covers exactly the encodings of its own instructions (R51). -/
theorem covers_iff_exists_encode {r : OpRow} (hr : r ∈ opRows) {w : CmdWord} :
    r.covers w = true ↔ ∃ i, instrRow i = r ∧ encode i = w := by
  constructor
  · intro hcovers
    have hmask : w &&& r.mask = r.pattern := of_decide_eq_true hcovers
    simp only [opRows, List.mem_cons, List.not_mem_nil, or_false] at hr
    rcases hr with rfl | rfl | rfl | rfl
    · exact ⟨.nop, rfl, ((and_ffff_eq w).symm.trans hmask).symm⟩
    · exact ⟨.clr, rfl, ((and_ffff_eq w).symm.trans hmask).symm⟩
    · exact ⟨.push w.arg, rfl, encode_push_eq_iff.2 ⟨hmask, rfl⟩⟩
    · exact ⟨.run w.arg, rfl, encode_run_eq_iff.2 ⟨hmask, rfl⟩⟩
  · rintro ⟨i, rfl, rfl⟩
    apply decide_eq_true
    cases i with
    | nop => rfl
    | clr => rfl
    | push c => exact (encode_push_eq_iff.1 rfl).1
    | run k => exact (encode_run_eq_iff.1 rfl).1

/-- The words of the opcode map are the encodings (R51). -/
theorem exists_row_covers_iff {w : CmdWord} : (∃ r ∈ opRows, r.covers w = true) ↔ ∃ i, encode i = w := by
  constructor
  · rintro ⟨r, hr, hcovers⟩
    obtain ⟨i, -, hi⟩ := (covers_iff_exists_encode hr).1 hcovers
    exact ⟨i, hi⟩
  · rintro ⟨i, hi⟩
    exact ⟨instrRow i, instrRow_mem i, (covers_iff_exists_encode (instrRow_mem i)).2 ⟨i, rfl, hi⟩⟩

theorem cmdWord_wf_iff {w : CmdWord} : CmdWord.wf w = true ↔ ∃ i, encode i = w :=
  List.any_eq_true.trans exists_row_covers_iff

/-- The patterns of two rows are disjoint, since a word encodes one instruction (R51). -/
theorem row_unique {w : CmdWord} {r r' : OpRow} (hr : r ∈ opRows) (hr' : r' ∈ opRows) (h : r.covers w = true)
    (h' : r'.covers w = true) : r = r' := by
  obtain ⟨i, hi, hw⟩ := (covers_iff_exists_encode hr).1 h
  obtain ⟨j, hj, hw'⟩ := (covers_iff_exists_encode hr').1 h'
  rw [← hi, ← hj, encode_injective (hw.trans hw'.symm)]

/-! ## The command words one by one -/

theorem encode_push_eq_ofNat (c : Byte) : encode (.push c) = BitVec.ofNat 16 (0x2000 + c.toNat) := by
  have hc := c.isLt
  apply BitVec.eq_of_toNat_eq
  simp only [encode, packWord_toNat, BitVec.toNat_ofNat]
  omega

theorem encode_run_eq_ofNat (k : Byte) : encode (.run k) = BitVec.ofNat 16 (0x3000 + k.toNat) := by
  have hk := k.isLt
  apply BitVec.eq_of_toNat_eq
  simp only [encode, packWord_toNat, BitVec.toNat_ofNat]
  omega

/-- The operands counted from 0 to 255 are all the bytes. -/
theorem mem_map_range_iff_exists_byte {α : Type} {f : Nat → α} {x : α} :
    x ∈ (List.range 256).map f ↔ ∃ c : Byte, f c.toNat = x := by
  simp only [List.mem_map, List.mem_range]
  constructor
  · rintro ⟨n, hn, rfl⟩
    exact ⟨BitVec.ofNat 8 n, by rw [BitVec.toNat_ofNat, Nat.mod_eq_of_lt hn]⟩
  · rintro ⟨c, rfl⟩
    exact ⟨c.toNat, c.isLt, rfl⟩

/-- The list of R51 leaves out no encoding and holds nothing else. -/
theorem mem_commandWords_iff {w : CmdWord} : w ∈ commandWords ↔ ∃ i, encode i = w := by
  simp only [commandWords, List.mem_cons, List.mem_append, mem_map_range_iff_exists_byte, ← encode_push_eq_ofNat,
    ← encode_run_eq_ofNat]
  constructor
  · rintro (rfl | rfl | ⟨c, rfl⟩ | ⟨k, rfl⟩)
    · exact ⟨.nop, rfl⟩
    · exact ⟨.clr, rfl⟩
    · exact ⟨.push c, rfl⟩
    · exact ⟨.run k, rfl⟩
  · rintro ⟨_ | _ | c | k, rfl⟩
    · exact .inl rfl
    · exact .inr (.inl rfl)
    · exact .inr (.inr (.inl ⟨c, rfl⟩))
    · exact .inr (.inr (.inr ⟨k, rfl⟩))

theorem commandWords_length : commandWords.length = 514 := by
  simp [commandWords]

/-- The command words as numbers: two, and two runs of 256. -/
theorem commandWords_map_toNat :
    commandWords.map BitVec.toNat = 0 :: 0x1000 :: (List.range' 0x2000 256 ++ List.range' 0x3000 256) := by
  have hrun : ∀ base, base + 256 ≤ 2 ^ 16 →
      (List.range 256).map (BitVec.toNat ∘ fun n => BitVec.ofNat 16 (base + n)) = List.range' base 256 := by
    intro base hbase
    rw [List.range'_eq_map_range]
    refine List.map_congr_left fun n hn => ?_
    have := List.mem_range.1 hn
    simp only [Function.comp_apply, BitVec.toNat_ofNat]
    omega
  simp only [commandWords, List.map_cons, List.map_append, List.map_map, hrun 0x2000 (by decide),
    hrun 0x3000 (by decide)]
  rfl

theorem commandWords_nodup : commandWords.Nodup := by
  apply List.Nodup.of_map BitVec.toNat
  rw [commandWords_map_toNat]
  have hdisjoint : List.Disjoint (List.range' 0x2000 256) (List.range' 0x3000 256) := by
    intro n hn hn'
    rw [List.mem_range'_1] at hn hn'
    omega
  have hruns := (List.nodup_range' (s := 0x2000) (n := 256)).append (List.nodup_range' (s := 0x3000) (n := 256)) hdisjoint
  simp only [List.nodup_cons, List.mem_cons, List.mem_append, List.mem_range'_1]
  exact ⟨by omega, by omega, hruns⟩

/-- Settles O3: row, decoder and list of words each speak of the encodings. -/
theorem decodeFollowsOpcodeMap : Obligations.DecodeFollowsOpcodeMap := by
  unfold Obligations.DecodeFollowsOpcodeMap
  refine ⟨fun w => ⟨?_, ?_, fun c => ?_, fun k => ?_⟩, fun w => ?_, fun _ _ hr _ hr' => row_unique hr hr',
    commandWords_length, by rw [commandWords_length]; rfl, commandWords_nodup,
    fun w => cmdWord_wf_iff.trans mem_commandWords_iff.symm⟩
  · rw [decode_eq_ok_iff, and_ffff_eq]
    exact eq_comm
  · rw [decode_eq_ok_iff, and_ffff_eq]
    exact eq_comm
  · rw [decode_eq_ok_iff, encode_push_eq_iff, and_00ff_toNat, BitVec.toNat_inj]
  · rw [decode_eq_ok_iff, encode_run_eq_iff, and_00ff_toNat, BitVec.toNat_inj]
  · rw [exists_decode_eq_error_iff, isReserved_iff_not_exists_encode, ← exists_row_covers_iff]
    simp

/-! ## Accepting a reserved word -/

theorem cmdWord_wf_eq_false_iff {w : CmdWord} : CmdWord.wf w = false ↔ IsReserved w := by
  rw [isReserved_iff_not_exists_encode, ← cmdWord_wf_iff, Bool.not_eq_true]

theorem stepWith_of_reserved {s : State} {why : ReservedWord} (h : s.event = .reserved why) (p : Params) :
    stepWith p s = .next s.popEdge.acceptReserved := by
  simp only [stepWith, h]

theorem acceptWord_of_error {w : CmdWord} {why : ReservedWord} (h : decode w = .error why) :
    acceptWord w = .reserved why := by
  simp only [acceptWord, h]

/-- A reserved word that is accepted is a reserved event, of which the step sets `CMDERR` (R62). -/
theorem AcceptsNext.step_eq_acceptReserved {s : State} (h : AcceptsNext s) (hres : IsReserved s.nextEdge.cmd) :
    step s = .next s.popEdge.acceptReserved := by
  obtain ⟨hrst, hready, hvalid⟩ := h
  obtain ⟨why, hdecode⟩ := exists_decode_eq_error_iff.2 hres
  have hevent : s.event = .reserved why := by
    rw [event_eq_acceptWord (State.not_busy_of_ready hready) hrst hvalid, acceptWord_of_error hdecode]
  exact stepWith_of_reserved hevent params

/-- Settles O4: a reserved word is one that no instruction encodes to, and its event writes one flag. -/
theorem reservedWordSetsCmderrOnly : Obligations.ReservedWordSetsCmderrOnly :=
  ⟨fun _ => cmdWord_wf_eq_false_iff, fun _ => exists_decode_eq_error_iff,
    fun _ haccept hres => haccept.step_eq_acceptReserved hres⟩

/-! ## Pseudo-instructions -/

/-- The words of a sequence of instructions decode to the sequence. -/
theorem map_decode_encode (is : List Instr) : (is.map encode).map decode = is.map .ok := by
  rw [List.map_map]
  exact List.map_congr_left fun i _ => decode_encode i

/-- Settles O32: a pseudo-instruction is the encoding of its instructions, one after the other. -/
theorem pseudoInstructionsExpand : Obligations.PseudoInstructionsExpand := by
  unfold Obligations.PseudoInstructionsExpand
  refine ⟨fun str => ?_, fun str k => ?_, rfl⟩
  · rw [AsmLine.words, map_decode_encode, pushAll, List.map_map]
    rfl
  · rw [AsmLine.words, map_decode_encode, transaction, pushAll]
    simp

/-! ## The digits -/

/-- The code of the symbol with digit `d`: the six ranges of R59, read from the digit's side. -/
def symbolCode (d : Nat) : Nat :=
  if d < 9 then d + 0x31
  else if d < 17 then d + 0x38
  else if d < 22 then d + 0x39
  else if d < 33 then d + 0x3a
  else if d < 44 then d + 0x40
  else d + 0x41

theorem symbolCode_lt {d : Nat} (h : d < 58) : symbolCode d < 256 := by
  unfold symbolCode
  split_ifs <;> omega

/-- The range table numbers the symbols as `symbolCode` does (R59). -/
theorem digit_eq_some_iff {c : Byte} {d : Nat} : digit c = some d ↔ d < 58 ∧ symbolCode d = c.toNat := by
  unfold digit symbolCode
  constructor
  · intro h
    simp only at h
    split_ifs at h <;> cases h <;> split_ifs <;> omega
  · rintro ⟨hd, hc⟩
    simp only
    split_ifs at hc ⊢ <;> grind

/-- The string of R58 lists the symbols of the six ranges of R59 in order. -/
theorem alphabet_eq_map_symbolCode : alphabet = (List.range 58).map fun d => BitVec.ofNat 8 (symbolCode d) := by
  decide +kernel

theorem alphabet_length : alphabet.length = 58 := by
  simp [alphabet_eq_map_symbolCode]

theorem alphabet_getElem?_eq_some_iff {c : Byte} {d : Nat} :
    alphabet[d]? = some c ↔ d < 58 ∧ symbolCode d = c.toNat := by
  rw [alphabet_eq_map_symbolCode]
  by_cases hd : d < 58
  · simp [hd, ← BitVec.toNat_inj, Nat.mod_eq_of_lt (symbolCode_lt hd)]
  · simp [hd]

theorem digit_eq_some_iff_alphabet {c : Byte} {d : Nat} : digit c = some d ↔ alphabet[d]? = some c :=
  digit_eq_some_iff.trans alphabet_getElem?_eq_some_iff.symm

/-- A symbol without a digit stands nowhere in the alphabet (R58). -/
theorem digit_eq_none_iff {c : Byte} : digit c = none ↔ c ∉ alphabet := by
  simp only [Option.eq_none_iff_forall_ne_some, List.mem_iff_getElem?, ne_eq, digit_eq_some_iff_alphabet, not_exists]

/-- Settles O43: the ranges of R59 and the string of R58 both number the symbols by `symbolCode`. -/
theorem digitIsAlphabetIndex : Obligations.DigitIsAlphabetIndex :=
  ⟨alphabet_length, fun _ _ => digit_eq_some_iff_alphabet, fun _ => digit_eq_none_iff, rfl, rfl⟩

end Sys2Proof.Machine
end

section
/-! PROOF. The commands of spec/40_commands.md: what accepting each one writes and leaves, and the transaction of R76, which
computes the source's `validate`. -/

namespace Sys2Proof.Machine

/-! ## The checks of a RUN -/

/-- The checks of a RUN write neither `ABUF` nor `LEN` (R102). -/
theorem verifyBuffer_keeps_buffer (p : Params) (s : State) :
    (verifyBuffer p s).abuf = s.abuf ∧ (verifyBuffer p s).len = s.len := by
  rcases verifyBuffer_cases p s with ⟨t, -, ⟨habuf, hlen, -⟩, hv⟩ | ⟨r, -, hv⟩
  · rw [hv]
    exact ⟨habuf, hlen⟩
  · rw [hv]
    exact ⟨rfl, rfl⟩

/-- Settles O33: the status written is that of the sequence's verdict, and the verdict is `RESULT`. -/
theorem microSequenceComputesResult : Obligations.MicroSequenceComputesResult := by
  unfold Obligations.MicroSequenceComputesResult
  intro p s
  refine ⟨?_, verifyBuffer_keeps_buffer p s⟩
  rw [verifyBuffer_status_eq_verdict, verdict_runSequence]

/-- On a string of another length `RESULT` reads the kind and nothing of `ABUF` (R92, R93). -/
theorem result_of_len_ne {len : BitVec 7} (h : len.toNat ≠ 98) (p : Params) (abuf : Vector Byte 98) (k : Byte) :
    result p abuf len k =
      if kindOf k = none then (false, Reject.inputType.code) else (false, Reject.length.code) := by
  unfold result
  cases kindOf k with
  | none => rfl
  | some kind => simp [h]

/-- `RESULT` accepts what the source's `validate` accepts, when the buffer holds the string wherever it is read (R76). -/
theorem result_valid_eq_validate {abuf : Vector Byte 98} {len : BitVec 7} {str : List Byte}
    (hlen : len.toNat = 98 ↔ str.length = 98) (habuf : str.length = 98 → abuf.toList = str) (p : Params) (k : Byte) :
    (result p abuf len k).1 = validate p str k := by
  by_cases hstr : str.length = 98
  · unfold result validate
    cases kindOf k with
    | none => rfl
    | some kind =>
      rw [habuf hstr]
      cases decodePayload p str with
      | none => simp [hlen.2 hstr]
      | some pay =>
        simp only [hlen.2 hstr, hstr, splitPayload]
        by_cases hpfx : bytesEq (payPrefix pay) (p.prefixTable kind).toList
        · by_cases hsum : bytesEq (slice (p.hash (paySpendView pay)).toList 0 Config.checksumLen) (payChecksum pay)
          · simp [hpfx, hsum]
          · simp [hpfx, hsum]
        · simp [hpfx]
  · rw [result_of_len_ne (mt hlen.1 hstr)]
    unfold validate
    cases kindOf k with
    | none => rfl
    | some kind => simp [hstr]

/-- `LEN` saturates above 98, so it reads 98 for the strings of that length only (R12). -/
theorem HoldsString.len_eq_iff {s : State} {str : List Byte} (h : HoldsString s str) :
    s.len.toNat = 98 ↔ str.length = 98 := by
  have hlen : s.len.toNat = min str.length 127 := h.1
  omega

/-- A string of 98 symbols fills the buffer (R10, R11). -/
theorem HoldsString.abuf_eq {s : State} {str : List Byte} (h : HoldsString s str) (hstr : str.length = 98) :
    s.abuf.toList = str := by
  obtain ⟨-, hentries⟩ := h
  refine List.ext_getElem? fun i => ?_
  by_cases hi : i < 98
  · have hget : str[i]? = some str[i] := List.getElem?_eq_getElem (by omega)
    rw [hget, hentries i hi _ hget]
  · rw [List.getElem?_eq_none (by simp; omega), List.getElem?_eq_none (by omega)]

/-- `RESULT` on a buffer that holds a string is about that string (R76, R146). -/
theorem HoldsString.result_valid {s : State} {str : List Byte} (h : HoldsString s str) (p : Params) (k : Byte) :
    (result p s.abuf s.len k).1 = validate p str k :=
  result_valid_eq_validate h.len_eq_iff h.abuf_eq p k

/-! ## Accepting a command -/

/-- During a RUN no command is accepted (R41). -/
theorem State.event_ne_command_of_busy {s : State} (h : s.status.busy = true) (i : Instr) : s.event ≠ .command i := by
  intro hevent
  obtain ⟨-, hidle, -⟩ := edgeEvent_eq_command hevent
  rw [h] at hidle
  cases hidle

theorem stepWith_of_stalled {s : State} (h : s.event = .stalled) (p : Params) : stepWith p s = .next s.popEdge := by
  simp only [stepWith, h]

/-- No command but CLR lowers `LEN` (R12, R71). -/
theorem eq_clr_of_exec_len_lt {i : Instr} {s t : State} (h : exec i s = .next t)
    (hlt : t.len.toNat < s.len.toNat) : i = .clr := by
  cases i with
  | clr => rfl
  | nop | run k => cases h; exact absurd hlt (Nat.lt_irrefl _)
  | push c =>
    cases h
    have hmax := s.len.isLt
    simp only [State.clearResult_len, State.advanceLen_len, State.storeChar_len, lenSucc_toNat] at hlt
    omega

/-- Only NOP has a clear `OP` field (R51). -/
theorem eq_nop_of_encode_op {i : Instr} (h : (encode i).op = 0#4) : i = .nop := by
  cases i with
  | nop => rfl
  | clr | push c | run k => simp [encode] at h

/-- Settles O13: the one instruction with `OP = 0` is NOP, so a word with `OP = 0` beside its encoding does not decode. -/
theorem nopChangesNothing : Obligations.NopChangesNothing := by
  unfold Obligations.NopChangesNothing
  refine ⟨rfl, exec_nop, fun w hop hne => ?_, fun s hbusy => State.event_ne_command_of_busy hbusy .nop⟩
  rcases decode_cases w with ⟨i, -, rfl⟩ | ⟨why, herr, -⟩
  · rw [eq_nop_of_encode_op hop] at hne
    exact absurd rfl hne
  · exact ⟨why, herr⟩

/-- Settles O14: CLR writes `LEN` and the result with constants, and `LEN` falls under no other command. -/
theorem clrClearsLenAndResult : Obligations.ClrClearsLenAndResult := by
  unfold Obligations.ClrClearsLenAndResult
  refine ⟨rfl, exec_clr, fun s t h => ?_, fun _ _ _ => eq_clr_of_exec_len_lt,
    fun s hbusy => State.event_ne_command_of_busy hbusy .clr⟩
  cases h
  rfl

/-- Settles O15: the store writes the entry at `LEN` alone, and the rest of PUSH writes `LEN` and the result. -/
theorem pushAppendsOneSymbol : Obligations.PushAppendsOneSymbol := by
  unfold Obligations.PushAppendsOneSymbol
  refine ⟨fun c => by simp [encode, packWord_toNat], fun c s => ⟨_, exec_push c s, fun hroom => ?_, fun i hi => ?_, ?_⟩⟩
  · rw [State.clearResult_abuf, State.advanceLen_abuf, State.storeChar_getElem?, if_pos ⟨rfl, hroom⟩]
  · rw [State.clearResult_abuf, State.advanceLen_abuf, State.storeChar_getElem?, if_neg fun ⟨hnew, _⟩ => hi hnew]
  · simp [Status.clearResult]

/-- Settles O16: acceptance by its equation, a stalled edge and a completing edge by their events, and the last clause since
a wrong length ends the checks before `ABUF` is read. -/
theorem runAcceptsThenCompletes : Obligations.RunAcceptsThenCompletes := by
  unfold Obligations.RunAcceptsThenCompletes
  refine ⟨fun k => by simp [encode, packWord_toNat], exec_run, fun s hbusy hrst hstall => ?_,
    fun s hbusy ⟨hrst, hstall⟩ => ?_, fun p abuf abuf' len k hlen => ?_⟩
  · exact stepWith_of_stalled (event_eq_stalled hbusy hrst hstall) params
  · exact stepWith_complete_writes_result (event_eq_complete hbusy hrst hstall) params
  · rw [result_of_len_ne hlen, result_of_len_ne hlen]

/-! ## The transaction of R76 -/

/-- The host presents an instruction's word to a block that runs nothing, and the step is the instruction's meaning (R40). -/
theorem stepWith_of_presented {s : State} {i : Instr} {es : List Edge} (hbusy : s.status.busy = false)
    (hedges : s.edges = Edge.present (encode i) :: es) (p : Params) : stepWith p s = exec i s.popEdge := by
  have hnext : s.nextEdge = Edge.present (encode i) := by simp [State.nextEdge, hedges]
  have haccept : AcceptsNext s := by simp [AcceptsNext, State.cmdReady, hnext, hbusy, Edge.present]
  refine stepWith_of_command (haccept.event_eq_command ?_) p
  rw [hnext]
  exact decode_encode i

/-- Within a transaction, between two commands: the block holds the string `str` and runs nothing, `CMDERR` is `cmderr`, and the
host drives `es` next (R76). -/
structure ReadyWith (s : State) (str : List Byte) (cmderr : Bool) (es : List Edge) : Prop where
  idle : s.status.busy = false
  holds : HoldsString s str
  cmderr_eq : s.status.cmderr = cmderr
  edges_eq : s.edges = es

/-- CLR begins a transaction, whatever the block held (R71). -/
theorem readyWith_of_clr {s : State} {es : List Edge} (hbusy : s.status.busy = false)
    (hedges : s.edges = Edge.present (encode .clr) :: es) (p : Params) :
    ∃ t : State, stepWith p s = .next t ∧ ReadyWith t [] s.status.cmderr es :=
  ⟨_, stepWith_of_presented hbusy hedges p, hbusy, .nil_of_len_zero rfl, rfl, by simp [hedges]⟩

/-- PUSH appends its symbol to the string held (R72). -/
theorem ReadyWith.push {s : State} {str : List Byte} {b : Bool} {c : Byte} {es : List Edge}
    (h : ReadyWith s str b (Edge.present (encode (.push c)) :: es)) (p : Params) :
    ∃ t : State, stepWith p s = .next t ∧ ReadyWith t (str ++ [c]) b es := by
  have hheld : HoldsString s.popEdge str := h.holds.congr rfl rfl
  refine ⟨_, stepWith_of_presented h.idle h.edges_eq p, ?_, hheld.push c, ?_, ?_⟩
  · simp [h.idle]
  · simp [h.cmderr_eq]
  · simp [h.edges_eq]

/-- One PUSH for each symbol appends the symbols in order, one edge each (R67, R72). -/
theorem ReadyWith.pushAll {cs : List Byte} {s : State} {str : List Byte} {b : Bool} {es : List Edge}
    (h : ReadyWith s str b (presentAll ((pushAll cs).map encode) ++ es)) (p : Params) :
    ∃ t : State, (∀ n, runEdgesWith p (cs.length + n) s = runEdgesWith p n t) ∧ ReadyWith t (str ++ cs) b es := by
  induction cs generalizing s str with
  | nil => exact ⟨s, fun n => by simp, by simpa [presentAll, Machine.pushAll] using h⟩
  | cons c cs ih =>
    obtain ⟨u, hstep, hu⟩ := ReadyWith.push h p
    obtain ⟨t, hrun, ht⟩ := ih hu
    refine ⟨t, fun n => ?_, by simpa using ht⟩
    rw [List.length_cons, Nat.add_right_comm, runEdgesWith_next hstep, hrun]

/-- RUN and the edge that completes it show the source's function of the string held (R74, R76). -/
theorem ReadyWith.run {s : State} {str : List Byte} {b : Bool} {k : Byte} {e : Edge} {rest : List Edge}
    (h : ReadyWith s str b (Edge.present (encode (.run k)) :: e :: rest)) (hrst : e.rst = false)
    (hstall : e.stall = false) (p : Params) :
    ∃ t : State, runEdgesWith p 2 s = .next t ∧
      t.status.done = true ∧ t.status.valid = validate p str k ∧ t.status.busy = false ∧
      t.status.cmderr = b ∧ t.len.toNat = min str.length 127 ∧ t.edges = rest := by
  have haccept := stepWith_of_presented h.idle h.edges_eq p
  rw [exec_run] at haccept
  have hedges : (s.popEdge.startRun k).edges = e :: rest := by simp [h.edges_eq]
  have hnext : (s.popEdge.startRun k).nextEdge = e := by rw [State.nextEdge, hedges]; rfl
  have hcomplete : (s.popEdge.startRun k).event = .complete :=
    event_eq_complete rfl (hnext ▸ hrst) (hnext ▸ hstall)
  obtain ⟨t, hstep, hstatus, -, hlen, hrest⟩ := stepWith_complete_writes_result hcomplete p
  refine ⟨t, ?_, ?_⟩
  · rw [runEdgesWith_next haccept, runEdgesWith_next hstep, runEdgesWith_zero]
  · rw [hstatus, hlen, hrest, hedges]
    exact ⟨rfl, h.holds.result_valid p k, rfl, h.cmderr_eq, h.holds.1, rfl⟩

/-- The edges of a transaction: CLR, the PUSHes, RUN, and what comes after (R67). -/
theorem presentAll_transaction (str : List Byte) (k : Byte) (es : List Edge) :
    presentAll ((transaction str k).map encode) ++ es =
      Edge.present (encode .clr) ::
        (presentAll ((pushAll str).map encode) ++ Edge.present (encode (.run k)) :: es) := by
  simp [presentAll, transaction]

/-- Settles O31: CLR empties the string held, the PUSHes make it `str`, and RUN computes `RESULT` of a buffer that holds it. -/
theorem transactionComputesValidate : Obligations.TransactionComputesValidate := by
  unfold Obligations.TransactionComputesValidate
  intro p s str k e rest hbusy hrst hstall hedges
  rw [presentAll_transaction] at hedges
  obtain ⟨cleared, hclr, hempty⟩ := readyWith_of_clr hbusy hedges p
  obtain ⟨pushed, hpushes, hheld⟩ := hempty.pushAll p
  obtain ⟨t, hrun, ht⟩ := hheld.run hrst hstall p
  refine ⟨t, ?_, ht⟩
  rw [runEdgesWith_next hclr, hpushes, hrun]

end Sys2Proof.Machine
end

section
/-! PROOF. The block decoder of spec/41_block_decoder.md: the value of a block and its byte group, the nine block decodes on the
state, and what overflow does to the map from blocks to bytes. -/

namespace Sys2Proof.Machine

/-! ## Horner's rule and the positional sum -/

/-- Horner's rule from any start: the start moves up by the digits read (R82). -/
theorem foldl_horner_eq (a : Nat) (ds : List Nat) :
    ds.foldl (fun v d => v * 58 + d) a = a * 58 ^ ds.length + positionalValue ds := by
  induction ds generalizing a with
  | nil => simp [positionalValue]
  | cons d ds ih =>
    rw [List.foldl_cons, ih, positionalValue, List.length_cons, pow_succ]
    ring

theorem hornerValue_eq_positionalValue (ds : List Nat) : hornerValue ds = positionalValue ds := by
  simp [hornerValue, foldl_horner_eq]

/-- Reducing after every step changes nothing modulo the width (R88). -/
theorem foldl_horner_mod (n a : Nat) (ds : List Nat) :
    ds.foldl (fun v d => (v * 58 + d) % n) (a % n) = (a * 58 ^ ds.length + positionalValue ds) % n := by
  induction ds generalizing a with
  | nil => simp [positionalValue]
  | cons d ds ih =>
    have hstep : (a % n * 58 + d) % n = (a * 58 + d) % n := by simp [Nat.add_mod, Nat.mul_mod]
    rw [List.foldl_cons, hstep, ih, positionalValue, List.length_cons, pow_succ]
    congr 1
    ring

/-- The sum of R82 is the library's number of the digits in base 58, least significant digit first. -/
theorem positionalValue_eq_ofDigits (ds : List Nat) : positionalValue ds = Nat.ofDigits 58 ds.reverse := by
  induction ds with
  | nil => rfl
  | cons d ds ih =>
    simp only [positionalValue, List.reverse_cons, Nat.ofDigits_append, Nat.ofDigits_singleton, List.length_reverse, ← ih]
    ring

theorem positionalValue_lt {ds : List Nat} (h : ∀ d ∈ ds, d < 58) : positionalValue ds < 58 ^ ds.length := by
  have hlt := Nat.ofDigits_lt_base_pow_length (b := 58) (l := ds.reverse) (by decide) (by simpa using h)
  rwa [← positionalValue_eq_ofDigits, List.length_reverse] at hlt

/-- Digit strings of one length have distinct values (R89). -/
theorem positionalValue_injective {ds ds' : List Nat} (hlen : ds.length = ds'.length) (h : ∀ d ∈ ds, d < 58)
    (h' : ∀ d ∈ ds', d < 58) (heq : positionalValue ds = positionalValue ds') : ds = ds' := by
  rw [positionalValue_eq_ofDigits, positionalValue_eq_ofDigits] at heq
  have hrev : ds.reverse = ds'.reverse :=
    Nat.ofDigits_inj_of_len_eq (by decide) (by simpa using hlen) (by simpa using h) (by simpa using h') heq
  exact List.reverse_injective hrev

/-- Settles O44: Horner's rule by induction over the digits, from any start, with and without reduction. -/
theorem hornerIsPositionalSum : Obligations.HornerIsPositionalSum := by
  unfold Obligations.HornerIsPositionalSum
  refine ⟨hornerValue_eq_positionalValue, fun _ => positionalValue_lt, fun m ds => ?_⟩
  simpa using foldl_horner_mod (2 ^ m) 0 ds

/-! ## The value of a block -/

theorem blockValue_eq_some_iff {cs : List Byte} {v : Nat} :
    blockValue cs = some v ↔ ∃ ds, digitsOf cs = some ds ∧ positionalValue ds = v := by
  simp [blockValue, hornerValue_eq_positionalValue]

/-- The first character of a block weighs 58 to the number of characters after it (R82). -/
theorem blockValue_cons_eq_some {c : Byte} {cs : List Byte} {v : Nat} :
    blockValue (c :: cs) = some v ↔
      ∃ d w, digit c = some d ∧ blockValue cs = some w ∧ v = d * 58 ^ cs.length + w := by
  simp only [blockValue_eq_some_iff, digitsOf_cons_eq_some]
  constructor
  · rintro ⟨_, ⟨d, ds, hd, hds, rfl⟩, rfl⟩
    exact ⟨d, _, hd, ⟨ds, hds, rfl⟩, by rw [positionalValue, digitsOf_length hds]⟩
  · rintro ⟨d, _, hd, ⟨ds, hds, rfl⟩, rfl⟩
    exact ⟨d :: ds, ⟨d, ds, hd, hds, rfl⟩, by rw [positionalValue, digitsOf_length hds]⟩

theorem blockValue_lt {cs : List Byte} {v : Nat} (h : blockValue cs = some v) : v < 58 ^ cs.length := by
  obtain ⟨ds, hds, rfl⟩ := blockValue_eq_some_iff.1 h
  rw [← digitsOf_length hds]
  exact positionalValue_lt (digitsOf_lt hds)

/-- CHARMAP fails exactly on a character without a digit (R81, R86). -/
theorem digitsOf_eq_none_iff {cs : List Byte} : digitsOf cs = none ↔ ∃ c ∈ cs, digit c = none := by
  induction cs with
  | nil => simp
  | cons c cs ih =>
    simp only [List.mem_cons, exists_eq_or_imp, ← ih, digitsOf]
    cases digit c <;> cases digitsOf cs <;> simp

theorem blockValue_eq_none_iff {cs : List Byte} : blockValue cs = none ↔ ∃ c ∈ cs, digit c = none := by
  rw [blockValue, Option.map_eq_none_iff, digitsOf_eq_none_iff]

/-- A digit belongs to one symbol (R58, R59). -/
theorem digit_injective {c c' : Byte} {d : Nat} (h : digit c = some d) (h' : digit c' = some d) : c = c' := by
  obtain ⟨-, hc⟩ := digit_eq_some_iff.1 h
  obtain ⟨-, hc'⟩ := digit_eq_some_iff.1 h'
  exact BitVec.eq_of_toNat_eq (hc.symm.trans hc')

theorem digitsOf_injective {cs cs' : List Byte} {ds : List Nat} (h : digitsOf cs = some ds)
    (h' : digitsOf cs' = some ds) : cs = cs' := by
  induction cs generalizing cs' ds with
  | nil =>
    cases h
    simpa using (digitsOf_length h').symm
  | cons c cs ih =>
    obtain ⟨d, ds, hd, hds, rfl⟩ := digitsOf_cons_eq_some.1 h
    cases cs' with
    | nil => cases h'
    | cons c' cs' =>
      obtain ⟨_, _, hd', hds', heq⟩ := digitsOf_cons_eq_some.1 h'
      cases heq
      rw [digit_injective hd hd', ih hds hds']

/-- A block is known by its length and its value (R89). -/
theorem blockValue_injective {cs cs' : List Byte} {v : Nat} (hlen : cs.length = cs'.length)
    (h : blockValue cs = some v) (h' : blockValue cs' = some v) : cs = cs' := by
  obtain ⟨ds, hds, hv⟩ := blockValue_eq_some_iff.1 h
  obtain ⟨ds', hds', hv'⟩ := blockValue_eq_some_iff.1 h'
  have hdslen : ds.length = ds'.length := by rw [digitsOf_length hds, digitsOf_length hds', hlen]
  have heq := positionalValue_injective hdslen (digitsOf_lt hds) (digitsOf_lt hds') (hv.trans hv'.symm)
  exact digitsOf_injective hds (heq ▸ hds')

/-! ## The byte group of a value -/

@[simp] theorem beBytes_zero (v : Nat) : beBytes 0 v = [] := rfl

theorem beBytes_one (v : Nat) : beBytes 1 v = [BitVec.ofNat 8 v] := rfl

/-- The last `m` bytes are those of the value itself, the ones before them those of what is above (R8). -/
theorem beBytes_add (k m v : Nat) : beBytes (k + m) v = beBytes k (v >>> (8 * m)) ++ beBytes m v := by
  simp only [beBytes, List.range_add, List.map_append, List.map_map]
  congr 1
  · refine List.map_congr_left fun i hi => ?_
    have hik : i < k := List.mem_range.1 hi
    rw [← Nat.shiftRight_add]
    congr 2
    omega
  · refine List.map_congr_left fun i _ => ?_
    simp only [Function.comp_apply]
    congr 3
    omega

/-- `n` bytes hold a value modulo `2^(8n)`, and nothing more of it. -/
theorem beBytes_eq_iff {n v w : Nat} : beBytes n v = beBytes n w ↔ v % 2 ^ (8 * n) = w % 2 ^ (8 * n) := by
  induction n generalizing v w with
  | zero => simp [Nat.mod_one]
  | succ n ih =>
    have hlow : BitVec.ofNat 8 v = BitVec.ofNat 8 w ↔ v % 256 = w % 256 := by simp [← BitVec.toNat_inj]
    have hpow : 2 ^ (8 * (n + 1)) = 256 * 2 ^ (8 * n) := by rw [Nat.mul_add, Nat.add_comm, pow_add]; rfl
    rw [beBytes_add, beBytes_add, beBytes_one, beBytes_one, List.append_singleton_inj, ih, hlow, hpow, Nat.mod_mul,
      Nat.mod_mul, Nat.shiftRight_eq_div_pow, Nat.shiftRight_eq_div_pow]
    norm_num only
    omega

/-- The padding strip keeps exactly the value modulo `2^(8n)` (R82, R83, R87). -/
theorem stripBytes_eq_beBytes (n v : Nat) : stripBytes n v = beBytes n v :=
  beBytes_eq_iff.2 (Nat.mod_mod v _)

theorem stripBytes_eq_iff {n v w : Nat} : stripBytes n v = stripBytes n w ↔ v % 2 ^ (8 * n) = w % 2 ^ (8 * n) := by
  rw [stripBytes_eq_beBytes, stripBytes_eq_beBytes, beBytes_eq_iff]

/-- Settles O52: the digits determine the block and the value the digits; the bytes determine a value that fits them. -/
theorem blockValueIsInjective : Obligations.BlockValueIsInjective := by
  unfold Obligations.BlockValueIsInjective
  refine ⟨fun cs cs' v => blockValue_injective, fun n v v' hv hv' heq => ?_⟩
  have hmod := stripBytes_eq_iff.1 heq
  rwa [Nat.mod_eq_of_lt hv, Nat.mod_eq_of_lt hv'] at hmod

/-- The group of a block whose characters all have digits (R82, R83, R87). -/
theorem decodeBlock_of_blockValue {addr : List Byte} {b v : Nat} (h : blockValue (blockChars addr b) = some v)
    (p : Params) :
    decodeBlock p addr b = if valueFits p (blockBytes b) v then some (stripBytes (blockBytes b) v) else none := by
  rw [decodeBlock, h]

/-- Under `OVERFLOW = reject` a value decodes if it fits its bytes (R87). -/
theorem valueFits_reject {p : Params} (h : p.overflow = .reject) (n v : Nat) :
    valueFits p n v = decide (v < 2 ^ (8 * n)) := by
  rw [valueFits, h]

/-- Settles O51: under truncation the group is the value modulo the width, under rejection there is one only for a value
below it. -/
theorem overflowTruncatesOrRejects : Obligations.OverflowTruncatesOrRejects := by
  unfold Obligations.OverflowTruncatesOrRejects
  intro p addr addr' b v v' hv hv'
  rw [decodeBlock_of_blockValue hv, decodeBlock_of_blockValue hv']
  refine ⟨fun htruncate => ?_, fun hreject => ?_⟩
  · simp [htruncate, stripBytes_eq_iff]
  · simp [valueFits_reject hreject]

/-! ## The buffer of a general-purpose decoder -/

theorem lastBytes_append {xs ys : List Byte} : lastBytes ys.length (xs ++ ys) = ys := by
  simp [lastBytes]

/-- The last `n` bytes of a longer buffer that holds a value are its `n` low bytes (R89). -/
theorem lastBytes_beBytes {n m : Nat} (h : n ≤ m) (v : Nat) : lastBytes n (beBytes m v) = stripBytes n v := by
  obtain ⟨k, rfl⟩ := Nat.exists_eq_add_of_le' h
  have hlast := lastBytes_append (xs := beBytes k (v >>> (8 * n))) (ys := beBytes n v)
  rwa [← beBytes_add, beBytes_length, ← stripBytes_eq_beBytes n] at hlast

/-- Zero bytes before the bytes of a value that fits them are the bytes above it. -/
theorem replicate_zero_append_beBytes {m v : Nat} (h : v < 2 ^ (8 * m)) (k : Nat) :
    List.replicate k 0 ++ beBytes m v = beBytes (k + m) v := by
  have hzero : v >>> (8 * m) = 0 := by rw [Nat.shiftRight_eq_div_pow, Nat.div_eq_of_lt h]
  rw [beBytes_add, hzero]
  simp [beBytes]

/-- The number of leading `'1'` characters of a block, each a zero byte of the buffer of R89. -/
def leadingOnes (cs : List Byte) : Nat := (cs.takeWhile (· == 0x31)).length

/-- The number of minimal big-endian bytes of a value in the buffer of R89: none for zero. -/
def minimalLength (v : Nat) : Nat := if v = 0 then 0 else (Nat.log2 v + 8) / 8

theorem lt_pow_minimalLength (v : Nat) : v < 2 ^ (8 * minimalLength v) := by
  unfold minimalLength
  split_ifs with hv
  · simp [hv]
  · calc v < 2 ^ (Nat.log2 v + 1) := Nat.lt_log2_self
      _ ≤ 2 ^ (8 * ((Nat.log2 v + 8) / 8)) := Nat.pow_le_pow_right (by decide) (by omega)

/-- The buffer of R89 is the value in as many bytes as there are leading `'1'` characters and minimal bytes. -/
theorem bufferView_eq {cs : List Byte} {v : Nat} (h : blockValue cs = some v) :
    bufferView cs = some (beBytes (leadingOnes cs + minimalLength v) v) := by
  have hbytes : (if v = 0 then [] else minimalBytes v) = beBytes (minimalLength v) v := by
    unfold minimalLength minimalBytes
    split_ifs <;> rfl
  rw [bufferView, h, Option.map_some, hbytes, ← replicate_zero_append_beBytes (lt_pow_minimalLength v)]
  rfl

/-- With `r` characters after the first one that is not `'1'`, a block is worth at least `58^r`. -/
theorem pow_le_of_leadingOnes {cs : List Byte} {v r : Nat} (h : blockValue cs = some v)
    (hr : cs.length = leadingOnes cs + r + 1) : 58 ^ r ≤ v := by
  induction cs generalizing v with
  | nil => simp at hr
  | cons c cs ih =>
    obtain ⟨d, w, hd, hw, rfl⟩ := blockValue_cons_eq_some.1 h
    by_cases hc : c = 0x31
    · have hones : leadingOnes (c :: cs) = leadingOnes cs + 1 := by simp [leadingOnes, hc]
      have hle := ih hw (by simp only [List.length_cons] at hr; omega)
      omega
    · have hones : leadingOnes (c :: cs) = 0 := by simpa [leadingOnes] using hc
      have hlen : cs.length = r := by simp only [List.length_cons] at hr; omega
      have hpos : 1 ≤ d := Nat.one_le_iff_ne_zero.2 fun h0 => hc (digit_injective (h0 ▸ hd) (by decide))
      calc 58 ^ r ≤ d * 58 ^ r := Nat.le_mul_of_pos_left _ hpos
        _ ≤ d * 58 ^ cs.length + w := by rw [hlen]; exact Nat.le_add_right _ _

/-- Up to seven bytes have no more values than three characters more than bytes. -/
theorem pow_bytes_le_pow_chars {m : Nat} (h : m < 8) : 2 ^ (8 * m) ≤ 58 ^ (m + 3) := by
  revert m
  decide

/-- The buffer of a block has at least three bytes fewer than the block has characters (R89). -/
theorem length_le_bufferView {cs : List Byte} {v : Nat} (h : blockValue cs = some v) (hlen : cs.length ≤ 11) :
    cs.length - 3 ≤ leadingOnes cs + minimalLength v := by
  by_contra hlt
  obtain ⟨r, hr⟩ : ∃ r, cs.length = leadingOnes cs + r + 1 := ⟨cs.length - leadingOnes cs - 1, by omega⟩
  have hvalue : 58 ^ r < 58 ^ (minimalLength v + 3) :=
    calc 58 ^ r ≤ v := pow_le_of_leadingOnes h hr
      _ < 2 ^ (8 * minimalLength v) := lt_pow_minimalLength v
      _ ≤ 58 ^ (minimalLength v + 3) := pow_bytes_le_pow_chars (by omega)
  have hexp : r < minimalLength v + 3 := (Nat.pow_lt_pow_iff_right (by decide)).1 hvalue
  omega

/-- Settles O53: the buffer is the value in enough bytes, so its last bytes are the value modulo the width. -/
theorem bufferViewGivesSameBytes : Obligations.BufferViewGivesSameBytes := by
  unfold Obligations.BufferViewGivesSameBytes
  intro cs buf v hv hbuf
  have henough := length_le_bufferView hv
  cases (bufferView_eq hv).symm.trans hbuf
  rw [beBytes_length]
  constructor
  · intro hlen
    have hfits : 8 ≤ leadingOnes cs + minimalLength v := by simpa [hlen] using henough
    exact ⟨hfits, lastBytes_beBytes hfits v⟩
  · intro hlen
    have hfits : 7 ≤ leadingOnes cs + minimalLength v := by simpa [hlen] using henough
    exact ⟨hfits, lastBytes_beBytes hfits v⟩

/-! ## One block decode on the state -/

theorem slice_length_le {α : Type} (xs : List α) (lo len : Nat) : (slice xs lo len).length ≤ len := by
  rw [slice_length]
  exact Nat.min_le_left _ _

/-- A block decode that goes on writes the value to the accumulator and its group to `PAY` (R82, R83). -/
theorem decodeTo_of_blockValue {p : Params} {s : State} {first len n v : Nat}
    (h : blockValue (slice s.abuf.toList first len) = some v) (hn : n ≤ 8) (hfits : valueFits p n v = true) (off : Nat) :
    decodeTo p first len off n s =
      .ok ((s.setAcc (BitVec.ofNat 65 v)).setPay (writeFrom s.pay off (stripBytes n v))) := by
  simp only [decodeTo, h, hfits, if_true, State.setAcc_pay, State.setAcc_acc, stripBytes_acc n v hn]

theorem decodeTo_of_digitsOf_none {p : Params} {s : State} {first len : Nat}
    (h : digitsOf (slice s.abuf.toList first len) = none) (off n : Nat) :
    decodeTo p first len off n s = .error .alphabet := by
  simp [decodeTo, blockValue, h]

/-- Under truncation a block with digits is decoded: its low `n` bytes go to `PAY` from `off` on, most significant first, and
beside `PAY` and the accumulator nothing changes (R82, R83). -/
theorem decodeTo_writes_group {p : Params} {s : State} {first len off n : Nat} {ds : List Nat}
    (htruncate : p.overflow = .truncate) (h : digitsOf (slice s.abuf.toList first len) = some ds) (hn : n ≤ 8)
    (hoff : off + n ≤ 71) :
    ∃ t : State, decodeTo p first len off n s = .ok t ∧
      (∀ i, i < n → t.pay.toList[off + i]? =
        some (BitVec.ofNat 8 ((positionalValue ds % 2 ^ (8 * n)) >>> (8 * (n - 1 - i))))) ∧
      (∀ j, j < off ∨ off + n ≤ j → t.pay.toList[j]? = s.pay.toList[j]?) ∧
      positionalValue ds < 58 ^ len ∧ { t with pay := s.pay, acc := s.acc } = s := by
  have hvalue : blockValue (slice s.abuf.toList first len) = some (positionalValue ds) :=
    blockValue_eq_some_iff.2 ⟨ds, h, rfl⟩
  have hbytes := stripBytes_length n (positionalValue ds)
  refine ⟨_, decodeTo_of_blockValue hvalue hn (valueFits_truncate p n _ htruncate) off, fun i hi => ?_, fun j hj => ?_, ?_,
    rfl⟩
  · rw [State.setPay_pay, writeFrom_getElem? _ _ _ _ (by omega), hbytes, if_pos (by omega), Nat.add_sub_cancel_left]
    exact beBytes_getElem? n _ i hi
  · rw [State.setPay_pay, writeFrom_getElem? _ _ _ _ (by omega), hbytes, if_neg (by omega)]
  · calc positionalValue ds < 58 ^ (slice s.abuf.toList first len).length := blockValue_lt hvalue
      _ ≤ 58 ^ len := Nat.pow_le_pow_right (by decide) (slice_length_le _ _ _)

/-- Settles O45: BLKDEC8 is the decode of eleven characters to eight bytes. -/
theorem blkDec8WritesBigEndianGroup : Obligations.BlkDec8WritesBigEndianGroup := by
  unfold Obligations.BlkDec8WritesBigEndianGroup
  intro p s b htruncate hb
  refine ⟨fun ds hds => ?_, fun hnone => decodeTo_of_digitsOf_none hnone _ _⟩
  obtain ⟨t, ht, hgroup, hrest⟩ :=
    decodeTo_writes_group (off := 8 * b) (n := 8) htruncate hds (Nat.le_refl 8) (by omega)
  refine ⟨t, ht, fun i hi => ?_, hrest⟩
  rw [hgroup i hi, show 8 * (8 - 1 - i) = 56 - 8 * i by omega]

/-- Settles O46: BLKDEC7 is the decode of ten characters to seven bytes, the last of `PAY`. -/
theorem blkDec7WritesTailGroup : Obligations.BlkDec7WritesTailGroup := by
  unfold Obligations.BlkDec7WritesTailGroup
  intro p s htruncate
  refine ⟨fun ds hds => ?_, fun hnone => decodeTo_of_digitsOf_none hnone _ _⟩
  obtain ⟨t, ht, hgroup, hbefore, hrest⟩ :=
    decodeTo_writes_group (off := 64) (n := 7) htruncate hds (by decide) (by decide)
  refine ⟨t, ht, fun i hi => ?_, fun j hj => hbefore j (.inl hj), hrest⟩
  rw [hgroup i hi, show 8 * (7 - 1 - i) = 48 - 8 * i by omega]

/-- The accumulator after a block decode that goes on (R88). -/
theorem decodeTo_acc {p : Params} {first len off n : Nat} {s t : State} (h : decodeTo p first len off n s = .ok t) :
    ∃ v, blockValue (slice s.abuf.toList first len) = some v ∧ t.acc = BitVec.ofNat 65 v := by
  rcases decodeTo_cases p first len off n s with ⟨v, hv, -, hok⟩ | ⟨-, herr⟩
  · cases hok.symm.trans h
    exact ⟨v, hv, rfl⟩
  · cases herr.symm.trans h

theorem blkDec_acc {p : Params} {b : Nat} {s t : State} (h : blkDec p b s = .ok t) :
    ∃ v, blockValue (blockChars s.abuf.toList b) = some v ∧ t.acc = BitVec.ofNat 65 v := by
  unfold blkDec at h
  unfold blockChars
  split_ifs at h ⊢ <;> exact decodeTo_acc h

/-- A full block has at most eleven characters, the tail block at most ten (R80). -/
theorem blockChars_length_le (addr : List Byte) (b : Nat) :
    (blockChars addr b).length ≤ if b < 8 then 11 else 10 := by
  unfold blockChars
  split_ifs <;> exact slice_length_le _ _ _

theorem blockValue_blockChars_lt {addr : List Byte} {b v : Nat} (h : blockValue (blockChars addr b) = some v) :
    v < 58 ^ (if b < 8 then 11 else 10) :=
  (blockValue_lt h).trans_le (Nat.pow_le_pow_right (by decide) (blockChars_length_le addr b))

/-- Settles O47: the value is below `58^11`, so the 65 bits of the accumulator lose nothing of it. -/
theorem accumulatorHoldsBlockValue : Obligations.AccumulatorHoldsBlockValue := by
  unfold Obligations.AccumulatorHoldsBlockValue
  intro p s t b _ hok
  obtain ⟨v, hv, hacc⟩ := blkDec_acc hok
  have hlt := blockValue_blockChars_lt hv
  have hfull : b < 8 → v < 58 ^ 11 := fun hb => by rwa [if_pos hb] at hlt
  have htail : ¬ b < 8 → v < 58 ^ 10 := fun hb => by rwa [if_neg hb] at hlt
  have hwidth : v < 2 ^ 65 := by
    by_cases hb : b < 8
    · exact (hfull hb).trans (by decide)
    · exact (htail hb).trans (by decide)
  refine ⟨v, hv, ?_, hfull, fun hb => htail (by omega), by decide, by decide⟩
  rw [hacc, BitVec.toNat_ofNat, Nat.mod_eq_of_lt hwidth]

/-! ## The nine block decodes -/

/-- The blocks listed have no group as soon as one of them has none (R86). -/
theorem decodeBlocks_eq_none_iff {p : Params} {addr : List Byte} {bs : List Nat} :
    decodeBlocks p addr bs = none ↔ ∃ b ∈ bs, decodeBlock p addr b = none := by
  induction bs with
  | nil => simp
  | cons b bs ih =>
    simp only [List.mem_cons, exists_eq_or_imp, ← ih, decodeBlocks]
    cases decodeBlock p addr b <;> cases decodeBlocks p addr bs <;> simp

/-- Under truncation only a character without a digit makes a block fail (R86, R87). -/
theorem decodeBlock_eq_none_iff {p : Params} (htruncate : p.overflow = .truncate) {addr : List Byte} {b : Nat} :
    decodeBlock p addr b = none ↔ ∃ c ∈ blockChars addr b, digit c = none := by
  rw [← blockValue_eq_none_iff]
  cases hv : blockValue (blockChars addr b) with
  | none => simp [decodeBlock, hv]
  | some v => simp [decodeBlock_of_blockValue hv, htruncate]

/-- The characters of a block are taken from the address by position (R80). -/
theorem blockChars_getElem? {addr : List Byte} {b i : Nat} (hb : b ≤ 8) (hi : i < if b < 8 then 11 else 10) :
    (blockChars addr b)[i]? = addr[11 * b + i]? := by
  unfold blockChars
  by_cases hfull : b < 8
  · rw [if_pos hfull] at hi ⊢
    rw [slice_getElem?, if_pos hi]
  · obtain rfl : b = 8 := by omega
    exact (slice_getElem? _ _ _ _).trans (if_pos hi)

/-- The nine blocks hold the characters of the address and no others (R80). -/
theorem mem_blockChars_iff {addr : List Byte} (hlen : addr.length = 98) {c : Byte} :
    (∃ b < 9, c ∈ blockChars addr b) ↔ c ∈ addr := by
  simp only [List.mem_iff_getElem?]
  constructor
  · rintro ⟨b, hb, i, hi⟩
    have hlt : i < (blockChars addr b).length := (List.getElem?_eq_some_iff.1 hi).1
    rw [blockChars_getElem? (by omega) (hlt.trans_le (blockChars_length_le addr b))] at hi
    exact ⟨11 * b + i, hi⟩
  · rintro ⟨i, hi⟩
    have hlt : i < addr.length := (List.getElem?_eq_some_iff.1 hi).1
    refine ⟨i / 11, by omega, i % 11, ?_⟩
    rw [blockChars_getElem? (by omega) (by split_ifs <;> omega), Nat.div_add_mod, hi]

/-- Under truncation an address has no payload exactly when a character has no digit (R86). -/
theorem decodePayload_eq_none_iff {p : Params} (htruncate : p.overflow = .truncate) {addr : List Byte}
    (hlen : addr.length = 98) : decodePayload p addr = none ↔ ∃ c ∈ addr, digit c = none := by
  simp only [decodePayload, decodeBlocks_eq_none_iff, decodeBlock_eq_none_iff htruncate, List.mem_range,
    ← mem_blockChars_iff hlen]
  constructor
  · rintro ⟨b, hb, c, hc, hnone⟩
    exact ⟨c, ⟨b, hb, hc⟩, hnone⟩
  · rintro ⟨c, ⟨b, hb, hc⟩, hnone⟩
    exact ⟨b, hb, c, hc, hnone⟩

/-- Settles O48: DECODE fails with ALPHABET when there is no payload, which a character without a digit alone can cause. -/
theorem decodeFailsOnForeignSymbolOnly : Obligations.DecodeFailsOnForeignSymbolOnly := by
  unfold Obligations.DecodeFailsOnForeignSymbolOnly
  intro p s htruncate
  have hnone := decodePayload_eq_none_iff htruncate (addr := s.abuf.toList) (by simp)
  rcases decodeAddr_cases p s with ⟨pay, t, hpay, -, hok, -⟩ | ⟨hfail, herr⟩
  · refine ⟨fun hforeign => ?_, fun _ => ⟨t, hok⟩⟩
    cases hpay.symm.trans (hnone.2 hforeign)
  · refine ⟨fun _ => herr, fun hdigits => ?_⟩
    obtain ⟨c, hc, hforeign⟩ := hnone.1 hfail
    exact absurd hforeign (hdigits c hc)

/-! ## The order of the block decodes -/

/-- Byte `i` of the payload, from the group of the block that holds it (R38). -/
def payloadByte (p : Params) (addr : List Byte) (i : Nat) : Option Byte :=
  (decodeBlock p addr (i / 8)).bind fun g => g[i % 8]?

/-- A block decode writes the payload bytes of its own block and no others (R38, R82, R83). -/
theorem blkDec_pay_getElem? {p : Params} {s t : State} {b i : Nat} (h : blkDec p b s = .ok t) (hb : b ≤ 8)
    (hi : i < 71) :
    t.pay.toList[i]? = if i / 8 = b then payloadByte p s.abuf.toList i else s.pay.toList[i]? := by
  rcases blkDec_cases p s b with ⟨g, u, hg, hlen, hok, -, hpay, -⟩ | ⟨-, herr⟩
  · cases hok.symm.trans h
    rw [blockBytes_eq] at hlen
    rw [hpay hb, writeFrom_getElem? _ _ _ _ (by rw [hlen]; split_ifs <;> omega), hlen]
    by_cases hblock : i / 8 = b
    · rw [if_pos (by split_ifs <;> omega), if_pos hblock, payloadByte, hblock, hg, Option.bind_some]
      congr 1
      omega
    · rw [if_neg (by split_ifs <;> omega), if_neg hblock]
  · cases herr.symm.trans h

theorem blkDecs_cons (p : Params) (b : Nat) (bs : List Nat) (s : State) :
    blkDecs p (b :: bs) s = match blkDec p b s with | .ok t => blkDecs p bs t | .error r => .error r := rfl

/-- Block decodes end in ALPHABET exactly when one of the blocks has no group, whatever their order (R84, R86). -/
theorem blkDecs_eq_error_iff {p : Params} {bs : List Nat} {s : State} {r : Reject} :
    blkDecs p bs s = .error r ↔ r = .alphabet ∧ ∃ b ∈ bs, decodeBlock p s.abuf.toList b = none := by
  induction bs generalizing s with
  | nil => simp [blkDecs]
  | cons b bs ih =>
    simp only [List.mem_cons, exists_eq_or_imp]
    rcases blkDec_cases p s b with ⟨g, t, hg, -, hok, ⟨habuf, -⟩, -⟩ | ⟨hnone, herr⟩
    · have hgo : blkDecs p (b :: bs) s = blkDecs p bs t := by rw [blkDecs_cons, hok]
      rw [hgo, ih, habuf, hg]
      simp
    · have hstop : blkDecs p (b :: bs) s = .error .alphabet := by rw [blkDecs_cons, herr]
      rw [hstop, hnone]
      simp [eq_comm]

/-- Block decodes that go on write the payload bytes of the blocks listed, whatever their order (R84). -/
theorem blkDecs_pay_getElem? {p : Params} {bs : List Nat} {s t : State} (h : blkDecs p bs s = .ok t)
    (hbs : ∀ b ∈ bs, b ≤ 8) {i : Nat} (hi : i < 71) :
    t.pay.toList[i]? = if i / 8 ∈ bs then payloadByte p s.abuf.toList i else s.pay.toList[i]? := by
  induction bs generalizing s with
  | nil => cases h; simp
  | cons b bs ih =>
    obtain ⟨hb, hbs⟩ := List.forall_mem_cons.1 hbs
    rcases blkDec_cases p s b with ⟨g, u, -, -, hok, ⟨habuf, -⟩, -⟩ | ⟨-, herr⟩
    · have hrest : blkDecs p bs u = .ok t := by rwa [blkDecs_cons, hok] at h
      rw [ih hrest hbs, habuf, blkDec_pay_getElem? hok hb hi]
      by_cases hmem : i / 8 ∈ bs <;> by_cases hblock : i / 8 = b <;> simp [hmem, hblock]
    · rw [blkDecs_cons, herr] at h
      cases h

/-- When all nine blocks are among those listed, every byte of `PAY` is the payload's (R84). -/
theorem blkDecs_all_pay_getElem? {p : Params} {bs : List Nat} {s t : State} (h : blkDecs p bs s = .ok t)
    (hbs : ∀ b, b ∈ bs ↔ b < 9) {i : Nat} (hi : i < 71) : t.pay.toList[i]? = payloadByte p s.abuf.toList i := by
  rw [blkDecs_pay_getElem? h (fun b hb => Nat.le_of_lt_succ ((hbs b).1 hb)) hi, if_pos ((hbs _).2 (by omega))]

/-- Settles O50: failure is about which blocks are listed, and every byte of `PAY` comes from its own block. -/
theorem blockOrderDoesNotMatter : Obligations.BlockOrderDoesNotMatter := by
  unfold Obligations.BlockOrderDoesNotMatter
  intro p s bs hperm
  have hall : ∀ b, b ∈ bs ↔ b < 9 := fun b => hperm.mem_iff.trans List.mem_range
  have hrange : ∀ b, b ∈ List.range 9 ↔ b < 9 := fun _ => List.mem_range
  refine ⟨fun r => ?_, fun t t' hok hok' => Vector.toList_inj.1 (List.ext_getElem? fun i => ?_)⟩
  · rw [decodeAddr, blkDecs_eq_error_iff, blkDecs_eq_error_iff]
    simp only [hall, hrange]
  · by_cases hi : i < 71
    · rw [blkDecs_all_pay_getElem? hok hall hi, blkDecs_all_pay_getElem? hok' hrange hi]
    · rw [List.getElem?_eq_none (by simp; omega), List.getElem?_eq_none (by simp; omega)]

end Sys2Proof.Machine
end

section
/-! PROOF. The verifier of spec/42_verifier.md: what each comparison reads, when a RUN is accepted, and that every RUN ends in a
result. -/

namespace Sys2Proof.Machine

/-! ## Comparing bytes -/

theorem bytesEq_iff {x y : List Byte} : bytesEq x y = true ↔ x = y := decide_eq_true_iff

/-- Two slices of one length are equal when they agree at every index (R100). -/
theorem slice_eq_slice_iff {α : Type} {xs ys : List α} {lo lo' n : Nat} :
    slice xs lo n = slice ys lo' n ↔ ∀ i, i < n → xs[lo + i]? = ys[lo' + i]? := by
  simp only [List.ext_getElem?_iff, slice_getElem?]
  refine forall_congr' fun i => ?_
  by_cases hi : i < n
  · simp [hi]
  · simp [hi]

theorem slice_zero {α : Type} (xs : List α) (n : Nat) : slice xs 0 n = xs.take n := rfl

/-- Settles O42: each sequence is the slice of itself from 0, and equal slices agree at every index. -/
theorem eqIsBytewise : Obligations.EqIsBytewise := by
  unfold Obligations.EqIsBytewise
  intro n x y hx hy
  have hslice : slice x 0 n = slice y 0 n ↔ x = y := by
    rw [slice_zero, slice_zero, List.take_of_length_le hx.le, List.take_of_length_le hy.le]
  rw [bytesEq_iff, ← hslice, slice_eq_slice_iff]
  simp only [Nat.zero_add]

/-! ## The micro-operations on the payload -/

theorem payPrefix_eq_take (pay : List Byte) : payPrefix pay = pay.take 3 := slice_zero pay 3

theorem paySpendView_eq_take (pay : List Byte) : paySpendView pay = pay.take 67 := slice_zero pay 67

/-- In a payload of 71 bytes the checksum is all that follows the hashed bytes (R39). -/
theorem payChecksum_eq_drop {pay : List Byte} (h : pay.length = 71) : payChecksum pay = pay.drop 67 :=
  List.take_of_length_le (by rw [List.length_drop, h]; decide)

/-- Settles O40: HASHCALL reads `PAY` through its first 67 bytes alone. -/
theorem hashCallDigestsSpendView : Obligations.HashCallDigestsSpendView := by
  unfold Obligations.HashCallDigestsSpendView
  intro p s
  have hcall : ∀ u : State, hashCall p u = .ok (u.setDig (p.hash (u.pay.toList.take 67))) := fun u => by
    rw [hashCall_eq, paySpendView_eq_take]
  refine ⟨hcall s, fun s' hsame => ⟨_, _, hcall s, hcall s', ?_⟩⟩
  rw [State.setDig_dig, State.setDig_dig, hsame]

/-- What CSUMCMP compares (R98). -/
theorem csumCmp_compares_iff (s : State) :
    bytesEq (slice s.dig.toList 0 Config.checksumLen) (payChecksum s.pay.toList) = true ↔
      ∀ i, i < 4 → s.dig.toList[i]? = s.pay.toList[67 + i]? := by
  rw [bytesEq_iff, payChecksum, slice_eq_slice_iff]
  simp only [Nat.zero_add]

/-- Settles O41: the two slices that CSUMCMP compares agree exactly when they do at each of the four indices. -/
theorem checksumComparesFourBytes : Obligations.ChecksumComparesFourBytes := by
  unfold Obligations.ChecksumComparesFourBytes
  intro s
  rw [csumCmp_eq]
  refine ⟨fun hsame => if_pos ((csumCmp_compares_iff s).2 hsame), fun ⟨i, hi, hne⟩ => if_neg fun heq => hne ?_⟩
  exact (csumCmp_compares_iff s).1 heq i hi

/-- The prefix is cut from the group of the first block (R38, R39). -/
theorem payPrefix_eq_beBytes {p : Params} {addr pay : List Byte} {v : Nat} (htruncate : p.overflow = .truncate)
    (hpay : decodePayload p addr = some pay) (hv : blockValue (addr.take 11) = some v) :
    payPrefix pay = beBytes 3 (v >>> 40) := by
  have hgroup : slice pay 0 8 = beBytes 8 v := by
    have hblock : blockValue (blockChars addr 0) = some v := hv
    have hdecoded := (decodeBlock_of_decodePayload hpay (Nat.zero_le 8)).symm.trans (decodeBlock_of_blockValue hblock p)
    rw [valueFits_truncate p _ _ htruncate, if_pos rfl, stripBytes_eq_beBytes] at hdecoded
    exact Option.some.inj hdecoded
  calc payPrefix pay = (slice pay 0 8).take 3 := by rw [payPrefix_eq_take, slice_zero, List.take_take]; rfl
    _ = (beBytes 3 (v >>> 40) ++ beBytes 5 v).take 3 := by rw [hgroup, beBytes_add 3 5 v]
    _ = beBytes 3 (v >>> 40) := List.take_left' (beBytes_length 3 _)

/-- Settles O39: the prefix is the three most significant bytes of the first block's value. -/
theorem prefixIsTopBitsOfFirstBlock : Obligations.PrefixIsTopBitsOfFirstBlock := by
  unfold Obligations.PrefixIsTopBitsOfFirstBlock
  intro addr pay v kind _ hpay hv
  have hexpected : (params.prefixTable kind).toList = beBytes 3 0xe28c01 := by
    rw [params_prefixTable_toList]
    decide
  rw [payPrefix_eq_beBytes rfl hpay hv, hexpected, beBytes_eq_iff, Nat.shiftRight_eq_div_pow]
  omega

/-! ## The kind and the conditions of acceptance -/

/-- The codes with a kind (R56). -/
theorem exists_kindOf_iff {k : Byte} : (∃ kind, kindOf k = some kind) ↔ k = 0#8 ∨ k = 1#8 ∨ k = 2#8 := by
  unfold kindOf
  split_ifs <;> simp [*]

theorem exists_kindOf_of_le {k : Byte} (h : k.toNat ≤ 2) : ∃ kind, kindOf k = some kind :=
  Option.ne_none_iff_exists'.1 fun hnone => absurd ((kindOf_eq_none k).1 hnone) (by omega)

/-- Of a recognised kind `RESULT` reads the entry of the prefix table and nothing else (R95, R103). -/
theorem result_eq_of_prefixTable_eq {p : Params} {k k' : Byte} {kind kind' : NetworkKind} (hk : kindOf k = some kind)
    (hk' : kindOf k' = some kind') (htable : (p.prefixTable kind).toList = (p.prefixTable kind').toList)
    (abuf : Vector Byte 98) (len : BitVec 7) : result p abuf len k = result p abuf len k' := by
  simp only [result, hk, hk', htable]

/-- Settles O37: the default table has one entry for all kinds. -/
theorem kindsGiveSameResultByDefault : Obligations.KindsGiveSameResultByDefault := by
  unfold Obligations.KindsGiveSameResultByDefault
  intro abuf len k k' hk hk'
  obtain ⟨kind, hkind⟩ := exists_kindOf_of_le hk
  obtain ⟨kind', hkind'⟩ := exists_kindOf_of_le hk'
  refine result_eq_of_prefixTable_eq hkind hkind' ?_ abuf len
  rw [params_prefixTable_toList, params_prefixTable_toList]

/-- `RESULT` accepts when none of its checks fails, whatever the overflow rule (R75, R99). -/
theorem result_valid_iff {p : Params} {abuf : Vector Byte 98} {len : BitVec 7} {k : Byte} :
    (result p abuf len k).1 = true ↔
      len.toNat = 98 ∧ ∃ kind pay, kindOf k = some kind ∧ decodePayload p abuf.toList = some pay ∧
        payPrefix pay = (p.prefixTable kind).toList ∧
        slice (p.hash (paySpendView pay)).toList 0 4 = payChecksum pay := by
  unfold result
  cases kindOf k with
  | none => simp
  | some kind =>
    by_cases hlen : len.toNat = 98
    · cases decodePayload p abuf.toList with
      | none => simp [hlen]
      | some pay =>
        by_cases hpfx : payPrefix pay = (p.prefixTable kind).toList
        · by_cases hsum : slice (p.hash (paySpendView pay)).toList 0 4 = payChecksum pay
          · simp [hlen, hpfx, hsum, bytesEq_iff]
          · simp [hlen, hpfx, hsum, bytesEq_iff]
        · simp [hlen, hpfx, bytesEq_iff]
    · simp [hlen]

/-- Under truncation a full buffer that decodes has a digit for every symbol (R86). -/
theorem digit_of_decodePayload {p : Params} (htruncate : p.overflow = .truncate) {abuf : Vector Byte 98} {pay : List Byte}
    (h : decodePayload p abuf.toList = some pay) : ∀ c ∈ abuf.toList, ∃ d, digit c = some d := by
  intro c hc
  refine Option.ne_none_iff_exists'.1 fun hnone => ?_
  have hfail := (decodePayload_eq_none_iff htruncate (by simp)).2 ⟨c, hc, hnone⟩
  cases hfail.symm.trans h

/-- Settles O36: the last three conditions are those of `RESULT`, and they imply the kind and the alphabet. -/
theorem acceptanceCondition : Obligations.AcceptanceCondition := by
  unfold Obligations.AcceptanceCondition
  intro p abuf len k htruncate
  have hlen : len.toNat = 98 ↔ len = 98#7 := (BitVec.toNat_inj (y := 98#7))
  rw [result_valid_iff, hlen]
  constructor
  · rintro ⟨hfull, kind, pay, hkind, hpay, hpfx, hsum⟩
    rw [slice_zero, paySpendView_eq_take, payChecksum_eq_drop (decodePayload_length hpay)] at hsum
    exact ⟨exists_kindOf_iff.1 ⟨kind, hkind⟩, hfull, digit_of_decodePayload htruncate hpay, kind, pay, hkind, hpay,
      payPrefix_eq_take pay ▸ hpfx, hsum⟩
  · rintro ⟨-, hfull, -, kind, pay, hkind, hpay, hpfx, hsum⟩
    rw [← slice_zero, ← paySpendView_eq_take, ← payChecksum_eq_drop (decodePayload_length hpay)] at hsum
    exact ⟨hfull, kind, pay, hkind, hpay, (payPrefix_eq_take pay).trans hpfx, hsum⟩

/-! ## Every step and every RUN goes through -/

theorem exec_answers_next (i : Instr) (s : State) : ∃ t, exec i s = .next t := by
  cases i with
  | nop => exact ⟨_, exec_nop s⟩
  | clr => exact ⟨_, exec_clr s⟩
  | push c => exact ⟨_, exec_push c s⟩
  | run k => exact ⟨_, exec_run k s⟩

/-- Settles O9, by the event of the edge; only a command is more than one equation. -/
theorem stepAlwaysAnswersNext : Obligations.StepAlwaysAnswersNext := by
  unfold Obligations.StepAlwaysAnswersNext
  intro s
  rw [← stepWith_params, stepWith]
  cases s.event with
  | reset | stalled | complete | idle | reserved why => exact ⟨_, rfl⟩
  | command i => exact exec_answers_next i s.popEdge

/-- A block that runs goes through any number of waiting edges and changes nothing but the edges left (R150). -/
theorem runEdgesWith_of_allStall {waits es : List Edge} {s : State} (hbusy : s.status.busy = true)
    (hwaits : AllStall waits) (hedges : s.edges = waits ++ es) (p : Params) (n : Nat) :
    runEdgesWith p (waits.length + n) s = runEdgesWith p n (s.setEdges es) := by
  induction waits generalizing s with
  | nil =>
    rw [List.nil_append] at hedges
    subst hedges
    rw [List.length_nil, Nat.zero_add]
    rfl
  | cons e waits ih =>
    obtain ⟨⟨hrst, hstall⟩, hrest⟩ := List.forall_mem_cons.1 hwaits
    have hnext : s.nextEdge = e := by simp [State.nextEdge, hedges]
    have hstep := stepWith_of_stalled (event_eq_stalled hbusy (hnext ▸ hrst) (hnext ▸ hstall)) p
    rw [List.length_cons, Nat.add_right_comm, runEdgesWith_next hstep, ih (s := s.popEdge) hbusy hrest (by simp [hedges])]
    rfl

/-- An accepted RUN, any waiting edges and the edge that completes it: the result of the buffer as it stood (R74, R101). -/
theorem runEdgesWith_of_run {s : State} {k : Byte} {waits rest : List Edge} {e : Edge} (hbusy : s.status.busy = false)
    (hwaits : AllStall waits) (hrst : e.rst = false) (hstall : e.stall = false)
    (hedges : s.edges = Edge.present (encode (.run k)) :: (waits ++ e :: rest)) (p : Params) :
    ∃ t : State, runEdgesWith p (waits.length + 2) s = .next t ∧
      t.status = s.status.afterRun (result p s.abuf s.len k) ∧ t.abuf = s.abuf ∧ t.len = s.len ∧ t.edges = rest := by
  have haccept : stepWith p s = .next (s.popEdge.startRun k) := stepWith_of_presented hbusy hedges p
  have hwaiting : (s.popEdge.startRun k).edges = waits ++ e :: rest := by simp [hedges]
  have hcomplete : ((s.popEdge.startRun k).setEdges (e :: rest)).event = .complete := event_eq_complete rfl hrst hstall
  obtain ⟨t, hstep, hstatus, habuf, hlen, hrest⟩ := stepWith_complete_writes_result hcomplete p
  refine ⟨t, ?_, hstatus.trans (Status.afterRun_congr rfl _), habuf, hlen, hrest⟩
  calc runEdgesWith p (waits.length + 1 + 1) s
    _ = runEdgesWith p (waits.length + 1) (s.popEdge.startRun k) := runEdgesWith_next haccept
    _ = runEdgesWith p 1 ((s.popEdge.startRun k).setEdges (e :: rest)) := runEdgesWith_of_allStall rfl hwaits hwaiting p 1
    _ = .next t := runEdgesWith_next hstep

/-- The status after a RUN shows acceptance without a code, or one of the codes 1..5 (R60, R101). -/
theorem Status.afterRun_result_cases {st st' : Status} {p : Params} {abuf : Vector Byte 98} {len : BitVec 7} {k : Byte}
    (h : st' = st.afterRun (result p abuf len k)) :
    (st'.valid = true ∧ st'.err = 0#3) ∨ (st'.valid = false ∧ 1 ≤ st'.err.toNat ∧ st'.err.toNat ≤ 5) := by
  subst h
  rcases result_cases p abuf len k with haccepted | ⟨r, hrejected⟩
  · rw [haccepted]
    exact .inl ⟨rfl, rfl⟩
  · rw [hrejected]
    exact .inr ⟨rfl, r.code_bounds⟩

/-- Settles O17: the RUN is accepted, waits without a change, and completes with `RESULT`, which is one of six. -/
theorem runAlwaysEndsInResult : Obligations.RunAlwaysEndsInResult := by
  unfold Obligations.RunAlwaysEndsInResult
  intro s k waits rest e hbusy hwaits hrst hstall hedges
  obtain ⟨t, hrun, hstatus, hkept⟩ := runEdgesWith_of_run hbusy hwaits hrst hstall hedges params
  exact ⟨t, hrun, hstatus, Status.afterRun_result_cases hstatus, hkept⟩

end Sys2Proof.Machine
end

section
/-! PROOF. Keccak-256 of spec/43_keccak256.md: the steps of the permutation lane by lane, the order of bytes in a lane, and how a
padded message is absorbed block by block. -/

namespace Sys2Proof.Machine

/-! ## Lanes and their indices -/

/-- Lane number `x + 5y` is the lane at `x`, `y` (R106). -/
theorem getElem?_eq_laneAt (a : Lanes) {x y : Nat} (hx : x < 5) (hy : y < 5) :
    a.toList[x + 5 * y]? = some (laneAt a x y) := by
  have hlt : x + 5 * y < a.toList.length := by rw [Vector.length_toList]; omega
  rw [laneAt, Nat.mod_eq_of_lt hx, Nat.mod_eq_of_lt hy, List.getD_eq_getElem _ _ hlt, List.getElem?_eq_getElem hlt]

/-- Lane number `i` is the lane at `i mod 5`, `i div 5` (R110). -/
theorem getElem?_eq_laneAt_mod_div (a : Lanes) {i : Nat} (hi : i < 25) :
    a.toList[i]? = some (laneAt a (i % 5) (i / 5)) := by
  rw [← getElem?_eq_laneAt a (Nat.mod_lt i (by decide)) (by omega), Nat.mod_add_div]

theorem getD_eq_laneAt_mod_div (a : Lanes) {i : Nat} (hi : i < 25) :
    a.toList.getD i 0 = laneAt a (i % 5) (i / 5) := by
  rw [List.getD_eq_getElem?_getD, getElem?_eq_laneAt_mod_div a hi, Option.getD_some]

/-- Any index `u` stands for the `x` below 5 that it is congruent to (R106). -/
theorem laneAt_congr_left (a : Lanes) {u x : Nat} (y : Nat) (h : u % 5 = x % 5) : laneAt a u y = laneAt a x y := by
  rw [← laneAt_mod_left, h, laneAt_mod_left]

theorem rho_congr_left {u x : Nat} (y : Nat) (h : u % 5 = x % 5) : rho u y = rho x y := by rw [rho, rho, h]

/-! ## The steps of one round -/

/-- `ROL` is the library's rotation: a shift right by the whole width leaves nothing (R106). -/
theorem rol_eq_rotateLeft (v : Lane) {n : Nat} (hn : n < 64) : rol v n = v.rotateLeft n := by
  rw [BitVec.rotateLeft_def, Nat.mod_eq_of_lt hn, rol]
  split
  case isTrue h =>
    subst h
    have hshift : v >>> (64 - 0) = 0#64 := BitVec.ushiftRight_eq_zero le_rfl
    rw [hshift, BitVec.shiftLeft_zero, BitVec.or_zero]
  case isFalse => rfl

/-- Rotation left moves bit `i` to bit `i + n` modulo 64 (R106). -/
theorem rol_getLsbD (v : Lane) {n i : Nat} (hn : n < 64) (hi : i < 64) :
    (rol v n).getLsbD ((i + n) % 64) = v.getLsbD i := by
  rw [rol_eq_rotateLeft v hn, BitVec.getLsbD_rotateLeft, Nat.mod_eq_of_lt hn]
  by_cases hwrap : i + n < 64
  · have hge : ¬ i + n < n := by omega
    simp [Nat.mod_eq_of_lt hwrap, hge, hwrap]
  · have hmod : (i + n) % 64 = i + n - 64 := by omega
    have hlt : i + n - 64 < n := by omega
    have hbit : 64 - n + (i + n - 64) = i := by omega
    simp [hmod, hlt, hbit]

theorem rowAt_thetaC (a : Lanes) (x : Nat) :
    rowAt (thetaC a) x =
      laneAt a x 0 ^^^ laneAt a x 1 ^^^ laneAt a x 2 ^^^ laneAt a x 3 ^^^ laneAt a x 4 := by
  simp only [thetaC, rowAt_tabulate, laneAt_mod_left]

theorem rowAt_thetaD (c : Vector Lane 5) {x : Nat} (hx : x < 5) :
    rowAt (thetaD c) x = rowAt c (x + 4) ^^^ rol (rowAt c (x + 1)) 1 := by
  rw [thetaD, rowAt_tabulate, Nat.mod_eq_of_lt hx]

theorem laneAt_theta (a : Lanes) {x y : Nat} (hx : x < 5) (hy : y < 5) :
    laneAt (theta a) x y =
      laneAt a x y ^^^ (rowAt (thetaC a) (x + 4) ^^^ rol (rowAt (thetaC a) (x + 1)) 1) := by
  rw [theta, thetaMix, laneAt_lanesOf _ x y hx hy, rowAt_thetaD _ hx]

/-- Rho and pi from the source lane: of the five lanes of row `y`, the one that lands at `2x + 3y` is `x` (R111). -/
theorem laneAt_rhoPi (a : Lanes) (x : Nat) {y : Nat} (hy : y < 5) :
    laneAt (rhoPi a) y (2 * x + 3 * y) = rol (laneAt a x y) (rho x y) := by
  have hsource : (3 * ((2 * x + 3 * y) % 5) + y) % 5 = x % 5 := by omega
  rw [← laneAt_mod_right, rhoPi, laneAt_lanesOf _ _ _ hy (Nat.mod_lt _ (by decide)),
    laneAt_congr_left a y hsource, rho_congr_left y hsource]

theorem laneAt_chi (b : Lanes) {x y : Nat} (hx : x < 5) (hy : y < 5) :
    laneAt (chi b) x y = laneAt b x y ^^^ (~~~ (laneAt b (x + 1) y) &&& laneAt b (x + 2) y) :=
  laneAt_lanesOf _ x y hx hy

theorem laneAt_iota_origin (c : Lane) (a : Lanes) : laneAt (iota c a) 0 0 = laneAt a 0 0 ^^^ c := by
  apply Option.some.inj
  rw [← getElem?_eq_laneAt _ (by decide) (by decide), iota, Vector.toList_set, List.getElem?_set_self (by simp)]

/-- iota leaves every lane but `A[0][0]` (R111). -/
theorem laneAt_iota_of_ne (c : Lane) (a : Lanes) {x y : Nat} (hx : x < 5) (hy : y < 5) (hne : x + 5 * y ≠ 0) :
    laneAt (iota c a) x y = laneAt a x y := by
  apply Option.some.inj
  rw [← getElem?_eq_laneAt _ hx hy, ← getElem?_eq_laneAt _ hx hy, iota, Vector.toList_set, List.getElem?_set_ne hne.symm]

/-- Settles O57: each step of the round, read at the lane it writes. -/
theorem keccakRoundSteps : Obligations.KeccakRoundSteps := by
  unfold Obligations.KeccakRoundSteps
  refine ⟨fun a x y => getElem?_eq_laneAt a, fun v n i => rol_getLsbD v, fun a x y hx hy => ?theta,
    fun b x y hx hy => ?chi, fun c a => ⟨laneAt_iota_origin c a, fun x y => laneAt_iota_of_ne c a⟩,
    fun _ _ => rfl, rfl, fun _ => rfl⟩
  case theta => simp only [laneAt_theta a hx hy, rowAt_thetaC, laneAt_mod_left]
  case chi => simp only [laneAt_chi b hx hy, laneAt_mod_left]

/-- Settles O56: rho and pi by source lane; the two tables by running their generators. -/
theorem keccakTablesAndRhoPi : Obligations.KeccakTablesAndRhoPi := by
  unfold Obligations.KeccakTablesAndRhoPi
  refine ⟨fun a x y _ hy => laneAt_rhoPi a x hy, ?constants, ?offsets, rfl⟩
  case constants => decide
  case offsets => decide

/-! ## Bytes and lanes -/

theorem laneByte_getLsbD (v : Lane) (i : Nat) {j : Nat} (hj : j < 8) :
    (laneByte v i).getLsbD j = v.getLsbD (8 * i + j) := by
  simp [laneByte, hj]

theorem laneByte_cons_zero (b : Byte) (bs : List Byte) : laneByte (laneOfBytes (b :: bs)) 0 = b := by
  refine BitVec.eq_of_getLsbD_eq fun j hj => ?_
  rw [laneByte_getLsbD _ _ hj, laneOfBytes]
  simp [hj, Nat.lt_trans hj]

theorem laneByte_cons_succ (b : Byte) (bs : List Byte) {i : Nat} (hi : i + 1 < 8) :
    laneByte (laneOfBytes (b :: bs)) (i + 1) = laneByte (laneOfBytes bs) i := by
  refine BitVec.eq_of_getLsbD_eq fun j hj => ?_
  have hbit : 8 * (i + 1) + j = 8 * i + j + 8 := by omega
  have hlt : 8 * i + j + 8 < 64 := by omega
  rw [laneByte_getLsbD _ _ hj, laneByte_getLsbD _ _ hj, laneOfBytes, hbit]
  simp [hlt, -BitVec.getLsbD_eq_getElem]

/-- Byte `i` of a lane is the `i`-th byte it was made of, and 0 past the last (R107). -/
theorem laneByte_laneOfBytes (bs : List Byte) {i : Nat} (hi : i < 8) : laneByte (laneOfBytes bs) i = bs.getD i 0 := by
  induction bs generalizing i with
  | nil => simp [laneOfBytes, laneByte]
  | cons b bs ih =>
    cases i with
    | zero => rw [laneByte_cons_zero, List.getD_cons_zero]
    | succ i => rw [laneByte_cons_succ b bs hi, ih (by omega), List.getD_cons_succ]

/-- A lane is determined by its eight bytes (R107). -/
theorem lane_ext {v w : Lane} (h : ∀ i, i < 8 → laneByte v i = laneByte w i) : v = w := by
  refine BitVec.eq_of_getLsbD_eq fun k hk => ?_
  have hj : k % 8 < 8 := Nat.mod_lt k (by decide)
  rw [← Nat.div_add_mod k 8, ← laneByte_getLsbD v _ hj, ← laneByte_getLsbD w _ hj, h (k / 8) (by omega)]

/-- Zero bytes at the most significant end add nothing (R107). -/
theorem laneOfBytes_append_zeros (bs : List Byte) (n : Nat) :
    laneOfBytes (bs ++ List.replicate n 0) = laneOfBytes bs := by
  refine lane_ext fun i hi => ?_
  rw [laneByte_laneOfBytes _ hi, laneByte_laneOfBytes _ hi]
  simp only [List.getD_eq_getElem?_getD, List.getElem?_append]
  split
  case isTrue => rfl
  case isFalse h => rw [List.getElem?_replicate, List.getElem?_eq_none (by omega)]; split <;> rfl

theorem laneOfBytes_zeros (n : Nat) : laneOfBytes (List.replicate n 0) = 0 := laneOfBytes_append_zeros [] n

/-! ## Slices of a concatenation -/

/-- A slice of a concatenation that lies in its first part. -/
theorem slice_append_of_le {α : Type} {xs : List α} (ys : List α) {lo len : Nat} (h : lo + len ≤ xs.length) :
    slice (xs ++ ys) lo len = slice xs lo len := by
  rw [slice, List.drop_append_of_le_length (by omega), List.take_append_of_le_length (by rw [List.length_drop]; omega), slice]

/-- A slice of a concatenation is what it takes of each part. -/
theorem slice_append {α : Type} (xs ys : List α) (lo len : Nat) :
    slice (xs ++ ys) lo len = slice xs lo len ++ slice ys (lo - xs.length) (len - (xs.length - lo)) := by
  rw [slice, List.drop_append, List.take_append, List.length_drop, slice, slice]

/-- A slice of a concatenation that lies in its second part. -/
theorem slice_append_of_ge {α : Type} {xs : List α} (ys : List α) {lo : Nat} (len : Nat) (h : xs.length ≤ lo) :
    slice (xs ++ ys) lo len = slice ys (lo - xs.length) len := by
  rw [slice, List.drop_append, List.drop_eq_nil_of_le h, List.nil_append, slice]

/-! ## Absorbing and squeezing -/

/-- XOR of a block: lanes 0 to 16 take its bytes, the others stay (R110). -/
theorem absorbBlock_getElem? (a : Lanes) (p : List Byte) {i : Nat} (hi : i < 25) :
    (absorbBlock a p).toList[i]? =
      some (if i < 17 then laneAt a (i % 5) (i / 5) ^^^ laneOfBytes (slice p (8 * i) 8) else laneAt a (i % 5) (i / 5)) := by
  rw [absorbBlock, tabulate_getElem? _ _ _ hi, getD_eq_laneAt_mod_div a hi]

theorem absorbBlock_getElem?_rate (a : Lanes) (p : List Byte) {i : Nat} (hi : i < 17) :
    (absorbBlock a p).toList[i]? = some (laneAt a (i % 5) (i / 5) ^^^ laneOfBytes (slice p (8 * i) 8)) := by
  rw [absorbBlock_getElem? a p (by omega), if_pos hi]

theorem absorbBlock_getElem?_capacity (a : Lanes) (p : List Byte) {i : Nat} (hi : 17 ≤ i) :
    (absorbBlock a p).toList[i]? = a.toList[i]? := by
  by_cases hlt : i < 25
  · rw [absorbBlock_getElem? a p hlt, if_neg (by omega), getElem?_eq_laneAt_mod_div a hlt]
  · rw [List.getElem?_eq_none (by simp; omega), List.getElem?_eq_none (by simp; omega)]

theorem zeroLanes_getElem? {i : Nat} (hi : i < 25) : zeroLanes.toList[i]? = some 0 :=
  tabulate_getElem? 25 _ i hi

theorem laneAt_zeroLanes {x y : Nat} (hx : x < 5) (hy : y < 5) : laneAt zeroLanes x y = 0 :=
  laneAt_lanesOf _ x y hx hy

theorem absorb_nil : absorb [] = zeroLanes := rfl

/-- The last block of a padded message is absorbed last, into what the blocks before it left (R110). -/
theorem absorb_append_block {blocks block : List Byte} (hblocks : blocks.length % 136 = 0) (hblock : block.length = 136) :
    absorb (blocks ++ block) = keccakF (absorbBlock (absorb blocks) block) := by
  have hcount : (blocks ++ block).length / rateBytes = blocks.length / rateBytes + 1 := by
    rw [List.length_append, hblock]
    exact Nat.add_div_right _ (by decide)
  have hlen : rateBytes * (blocks.length / rateBytes) = blocks.length :=
    Nat.mul_div_cancel' (Nat.dvd_of_mod_eq_zero hblocks)
  have hlast : slice (blocks ++ block) blocks.length rateBytes = block := by
    simpa [hblock, rateBytes] using slice_append_middle blocks block []
  have hbefore : ∀ (a : Lanes) (j), j ∈ List.range (blocks.length / rateBytes) →
      keccakF (absorbBlock a (slice (blocks ++ block) (rateBytes * j) rateBytes)) =
        keccakF (absorbBlock a (slice blocks (rateBytes * j) rateBytes)) := by
    intro a j hj
    have hj' : rateBytes * (j + 1) ≤ rateBytes * (blocks.length / rateBytes) :=
      Nat.mul_le_mul_left _ (List.mem_range.1 hj)
    rw [slice_append_of_le block (by rw [← hlen]; exact hj')]
  rw [absorb, hcount, List.range_succ, List.foldl_append, List.foldl_cons, List.foldl_nil, hlen, hlast,
    List.foldl_ext _ _ _ hbefore, ← absorb]

/-- A message of one block is one permutation, from lanes all 0 (R110). -/
theorem absorb_block {block : List Byte} (h : block.length = 136) : absorb block = keccakF (absorbBlock zeroLanes block) :=
  absorb_append_block (blocks := []) rfl h

theorem absorbBlock_zeroLanes_getElem? (p : List Byte) {i : Nat} (hi : i < 17) :
    (absorbBlock zeroLanes p).toList[i]? = some (laneOfBytes (slice p (8 * i) 8)) := by
  rw [absorbBlock_getElem?_rate _ _ hi, laneAt_zeroLanes (by omega) (by omega)]
  exact congrArg some (BitVec.zero_xor)

/-- Byte `8i + j` of the output is byte `j` of lane `i` (R110). -/
theorem squeeze_getElem? (a : Lanes) {i j : Nat} (hi : i < 4) (hj : j < 8) :
    (squeeze a).toList[8 * i + j]? = some (laneByte (laneAt a i 0) j) := by
  have hdiv : (8 * i + j) / 8 = i := by omega
  have hmod : (8 * i + j) % 8 = j := by omega
  have hrow : i / 5 = 0 := by omega
  rw [squeeze, tabulate_getElem? _ _ _ (by omega), hdiv, hmod, getD_eq_laneAt_mod_div a (by omega), hrow, laneAt_mod_left]

/-- Settles O58: byte order by the bits of a lane, absorbing by the last block, squeezing by index. -/
theorem absorbAndSqueezeByteOrder : Obligations.AbsorbAndSqueezeByteOrder := by
  unfold Obligations.AbsorbAndSqueezeByteOrder
  refine ⟨fun v i j _ hj => laneByte_getLsbD v i hj, fun bs i hlen hi => ?bytes,
    fun a block i _ => ⟨absorbBlock_getElem?_rate a block, absorbBlock_getElem?_capacity a block⟩,
    fun i hi => ?start, fun _ _ => absorb_append_block, fun a i j => squeeze_getElem? a, fun _ => rfl⟩
  case bytes =>
    have hlt : i < bs.length := hlen ▸ hi
    rw [laneByte_laneOfBytes bs hi, List.getD_eq_getElem _ _ hlt, List.getElem?_eq_getElem hlt]
  case start => rw [absorb_nil, zeroLanes_getElem? hi]

/-! ## Padding -/

theorem padBytes_of_eq_one {n : Nat} (h : 136 - n % 136 = 1) : padBytes n = [0x81] := if_pos h

theorem padBytes_of_ne_one {n : Nat} (h : 136 - n % 136 ≠ 1) :
    padBytes n = 0x01 :: (List.replicate (136 - n % 136 - 2) 0x00 ++ [0x80]) := if_neg h

theorem padBytes_length (n : Nat) : (padBytes n).length = 136 - n % 136 := by
  by_cases h : 136 - n % 136 = 1
  · rw [padBytes_of_eq_one h, h, List.length_singleton]
  · rw [padBytes_of_ne_one h]
    rw [List.length_cons, List.length_append, List.length_replicate, List.length_singleton]
    omega

theorem padMessage_length (m : List Byte) : (padMessage m).length = m.length + (136 - m.length % 136) := by
  rw [padMessage, List.length_append, padBytes_length]

/-- An entry past the message is an entry of the padding (R109). -/
theorem padMessage_getElem?_add (m : List Byte) (k : Nat) : (padMessage m)[m.length + k]? = (padBytes m.length)[k]? := by
  rw [padMessage, List.getElem?_append_right (Nat.le_add_right _ _), Nat.add_sub_cancel_left]

/-- The three parts of a padding of `k + 2` bytes: `0x01`, `k` zeros, `0x80` (R109). -/
theorem padBytes_getElem? {n : Nat} {k : Nat} (h : 136 - n % 136 = k + 2) :
    (padBytes n)[0]? = some 0x01 ∧ (padBytes n)[k + 1]? = some 0x80 ∧
      ∀ i, i < k → (padBytes n)[i + 1]? = some 0x00 := by
  have hpad : padBytes n = 0x01 :: (List.replicate k 0x00 ++ [0x80]) := by
    rw [padBytes_of_ne_one (by omega), h, Nat.add_sub_cancel]
  rw [hpad]
  refine ⟨rfl, ?_, fun i hi => ?_⟩
  · simp
  · simp [List.getElem?_append, hi]

/-- Settles O54: the padding has `q` bytes, of the one form or the other. -/
theorem paddingFillsWholeBlocks : Obligations.PaddingFillsWholeBlocks := by
  unfold Obligations.PaddingFillsWholeBlocks
  intro m q
  have hq : q = 136 - m.length % 136 := rfl
  have hlen : (padMessage m).length = m.length + q := padMessage_length m
  refine ⟨by omega, by omega, hlen, by omega, List.take_left, fun hone => ?_, fun hne => ?_⟩
  · rw [padMessage, List.drop_left, padBytes_of_eq_one hone]
  · obtain ⟨k, hk⟩ : ∃ k, q = k + 2 := ⟨q - 2, by omega⟩
    obtain ⟨hfirst, hlast, hzeros⟩ := padBytes_getElem? (hq ▸ hk)
    refine ⟨?_, ?_, fun i hlo hhi => ?_⟩
    · rw [← hfirst, ← padMessage_getElem?_add, Nat.add_zero]
    · rw [← hlast, ← padMessage_getElem?_add, hk]; rfl
    · obtain ⟨j, rfl⟩ : ∃ j, i = m.length + (j + 1) := ⟨i - m.length - 1, by omega⟩
      rw [padMessage_getElem?_add, hzeros j (by omega)]

/-! ## The message of this hardware -/

/-- The padded message of this hardware is one block (R114). -/
theorem padMessage_spendView_length {m : List Byte} (h : m.length = 67) : (padMessage m).length = 136 := by
  rw [padMessage_length, h]

/-- Lanes 0 to 7 hold bytes of the message alone (R114). -/
theorem slice_padMessage_message {m : List Byte} (h : m.length = 67) {i : Nat} (hi : i < 8) :
    slice (padMessage m) (8 * i) 8 = slice m (8 * i) 8 :=
  slice_append_of_le _ (by omega)

/-- Lane 8 holds the last three bytes of the message and the first padding byte (R114). -/
theorem slice_padMessage_boundary {m : List Byte} (h : m.length = 67) :
    slice (padMessage m) (8 * 8) 8 = slice m 64 3 ++ [0x01] ++ List.replicate 4 0 := by
  have hmessage : slice m 64 8 = slice m 64 3 := by
    have hlen : (m.drop 64).length = 3 := by rw [List.length_drop, h]
    rw [slice, slice, List.take_of_length_le (by omega), List.take_of_length_le hlen.le]
  have hpadding : slice (padBytes 67) 0 5 = [0x01] ++ List.replicate 4 0 := by decide
  rw [padMessage, slice_append, h, hmessage, hpadding, List.append_assoc]

/-- Lanes from 9 on hold bytes of the padding alone (R114). -/
theorem slice_padMessage_padding {m : List Byte} (h : m.length = 67) {i : Nat} (hi : 9 ≤ i) :
    slice (padMessage m) (8 * i) 8 = slice (padBytes 67) (8 * i - 67) 8 := by
  rw [padMessage, slice_append_of_ge _ _ (by omega), h]

theorem slice_padBytes_zeros : ∀ i, i < 16 → 9 ≤ i → slice (padBytes 67) (8 * i - 67) 8 = List.replicate 8 0 := by decide

theorem laneOfBytes_padBytes_last : laneOfBytes (slice (padBytes 67) (8 * 16 - 67) 8) = 0x8000000000000000 := by decide

/-- Settles O55: the padded message is one block, absorbed into lanes all 0. -/
theorem hashOfSpendViewIsOnePermutation : Obligations.HashOfSpendViewIsOnePermutation := by
  unfold Obligations.HashOfSpendViewIsOnePermutation
  intro m h
  have hhash : keccak256 m = squeeze (keccakF (absorbBlock zeroLanes (padMessage m))) := by
    rw [keccak256, absorb_block (padMessage_spendView_length h)]
  refine ⟨_, hhash, fun i hi => ?message, ?boundary, fun i hlo hhi => ?zeros, ?last, fun i hlo hhi => ?capacity⟩
  case message => rw [absorbBlock_zeroLanes_getElem? _ (by omega), slice_padMessage_message h hi]
  case boundary =>
    rw [absorbBlock_zeroLanes_getElem? _ (by decide), slice_padMessage_boundary h, laneOfBytes_append_zeros]
  case zeros =>
    rw [absorbBlock_zeroLanes_getElem? _ (by omega), slice_padMessage_padding h hlo, slice_padBytes_zeros i hhi hlo,
      laneOfBytes_zeros]
  case last =>
    rw [absorbBlock_zeroLanes_getElem? _ (by decide), slice_padMessage_padding h (by decide), laneOfBytes_padBytes_last]
  case capacity => rw [absorbBlock_getElem?_capacity _ _ hlo, zeroLanes_getElem? hhi]

end Sys2Proof.Machine
end

section
/-! PROOF. The rejects of spec/60_exceptions.md: what raising one writes, which check is reported, and what the prefix check
depends on. -/

namespace Sys2Proof.Machine

/-! ## Raising a reject -/

/-- A RUN whose sequence raises a reject shows its code (R126). -/
theorem completeRun_status_of_reject {p : Params} {s : State} {r : Reject} (h : runMicros (runSequence p) s = .error r) :
    (completeRun p s).status = s.status.afterRun (false, r.code) := by
  rw [completeRun_status, ← verdict_runSequence, h, verdict_error]

/-- Settles O34: the entry of a reject is one write of `STATUS`, and a RUN's status is that of its sequence's verdict. -/
theorem rejectEntryWritesStatusOnly : Obligations.RejectEntryWritesStatusOnly := by
  unfold Obligations.RejectEntryWritesStatusOnly
  exact ⟨fun s r => rfl,
    fun p s r h => ⟨completeRun_status_of_reject h, completeRun_abuf p s, completeRun_len p s⟩, rfl⟩

/-! ## The order of the checks -/

theorem result_of_kindOf_none {k : Byte} (hk : kindOf k = none) (p : Params) (abuf : Vector Byte 98) (len : BitVec 7) :
    result p abuf len k = (false, 1#3) := by
  simp only [result, hk, Reject.code_inputType]

section FullBuffer

variable {p : Params} {abuf : Vector Byte 98} {len : BitVec 7} {k : Byte} {kind : NetworkKind}

/-- Of a full buffer without a payload `RESULT` reports ALPHABET (R94). -/
theorem result_of_decodePayload_none (hk : kindOf k = some kind) (hlen : len.toNat = 98)
    (hnone : decodePayload p abuf.toList = none) : result p abuf len k = (false, 3#3) := by
  simp [result, hk, hlen, hnone]

/-- Of a decoded payload `RESULT` compares the prefix first and then the checksum (R96, R98). -/
theorem result_of_decodePayload {pay : List Byte} (hk : kindOf k = some kind) (hlen : len.toNat = 98)
    (hpay : decodePayload p abuf.toList = some pay) :
    result p abuf len k =
      if payPrefix pay ≠ (p.prefixTable kind).toList then (false, 4#3)
      else if slice (p.hash (paySpendView pay)).toList 0 4 ≠ payChecksum pay then (false, 5#3)
      else (true, 0#3) := by
  simp [result, hk, hlen, hpay, bytesEq_iff]

/-- Of a decoded payload PREFIX is reported exactly when the prefix differs, whatever the checksum (R124, R129). -/
theorem result_of_decodePayload_eq_pfxMismatch_iff {pay : List Byte} (hk : kindOf k = some kind) (hlen : len.toNat = 98)
    (hpay : decodePayload p abuf.toList = some pay) :
    result p abuf len k = (false, 4#3) ↔ payPrefix pay ≠ (p.prefixTable kind).toList := by
  rw [result_of_decodePayload hk hlen hpay]
  split_ifs with hpfx hsum
  · exact iff_of_true rfl hpfx
  · exact iff_of_false (by decide) hpfx
  · exact iff_of_false (by decide) hpfx

end FullBuffer

/-- Settles O35: each clause is the equation of `RESULT` for the first check that fails; under truncation DECODE fails exactly
on a character outside the alphabet. -/
theorem firstFailingCheckReported : Obligations.FirstFailingCheckReported := by
  unfold Obligations.FirstFailingCheckReported
  intro p abuf len k htruncate
  have hnone := decodePayload_eq_none_iff htruncate (addr := abuf.toList) (by simp)
  refine ⟨fun hk => ?_, fun hk hlen => ?_, fun hk hlen hforeign => ?_, fun kind hkind hlen hdigits => ?_⟩
  · exact result_of_kindOf_none ((kindOf_eq_none k).2 hk) p abuf len
  · obtain ⟨kind, hkind⟩ := exists_kindOf_of_le hk
    rw [result_of_len_ne hlen, if_neg (by simp [hkind]), Reject.code_length]
  · obtain ⟨kind, hkind⟩ := exists_kindOf_of_le hk
    exact result_of_decodePayload_none hkind hlen (hnone.2 hforeign)
  · have hdecodes : decodePayload p abuf.toList ≠ none := fun hfail =>
      let ⟨c, hc, hforeign⟩ := hnone.1 hfail
      hdigits c hc hforeign
    obtain ⟨pay, hpay⟩ := Option.ne_none_iff_exists'.1 hdecodes
    have hresult := result_of_decodePayload hkind hlen hpay
    refine ⟨pay, hpay, fun hpfx => ?_, fun hpfx hsum => ?_, fun hpfx hsum => ?_⟩
    · rw [hresult, if_pos hpfx]
    · rw [hresult, if_neg (not_not.2 hpfx), if_pos hsum]
    · rw [hresult, if_neg (not_not.2 hpfx), if_neg (not_not.2 hsum)]

/-! ## The prefix check -/

/-- PREFIX is reported only for a recognised kind, a full buffer and a payload (R124, R129). -/
theorem decoded_of_result_eq_pfxMismatch {p : Params} {abuf : Vector Byte 98} {len : BitVec 7} {k : Byte}
    (h : result p abuf len k = (false, 4#3)) :
    (∃ kind, kindOf k = some kind) ∧ len.toNat = 98 ∧ ∃ pay, decodePayload p abuf.toList = some pay := by
  cases hk : kindOf k with
  | none =>
    rw [result_of_kindOf_none hk] at h
    exact absurd h (by decide)
  | some kind =>
    by_cases hlen : len.toNat = 98
    · cases hpay : decodePayload p abuf.toList with
      | none =>
        rw [result_of_decodePayload_none hk hlen hpay] at h
        exact absurd h (by decide)
      | some pay => exact ⟨⟨kind, rfl⟩, hlen, pay, rfl⟩
    · rw [result_of_len_ne hlen, if_neg (by simp [hk])] at h
      exact absurd h (by decide)

/-- The prefix lies in the group of block 0, which is decoded from the first 11 characters (R38, R39). -/
theorem payPrefix_eq_of_take_eq {p : Params} {addr addr' pay pay' : List Byte} (hpay : decodePayload p addr = some pay)
    (hpay' : decodePayload p addr' = some pay') (hchars : addr.take 11 = addr'.take 11) :
    payPrefix pay = payPrefix pay' := by
  have hblock : decodeBlock p addr 0 = decodeBlock p addr' 0 := by
    have hsame : blockChars addr 0 = blockChars addr' 0 := hchars
    rw [decodeBlock, decodeBlock, hsame]
  rw [decodeBlock_of_decodePayload hpay (Nat.zero_le 8), decodeBlock_of_decodePayload hpay' (Nat.zero_le 8)] at hblock
  have hgroup : pay.take 8 = pay'.take 8 := Option.some.inj hblock
  calc payPrefix pay = (pay.take 8).take 3 := by rw [payPrefix_eq_take, List.take_take]; rfl
    _ = (pay'.take 8).take 3 := by rw [hgroup]
    _ = payPrefix pay' := by rw [payPrefix_eq_take, List.take_take]; rfl

/-- PREFIX carries over to another decoded buffer with the same first 11 characters (R124). -/
theorem result_eq_pfxMismatch_of_take_eq {p : Params} {abuf abuf' : Vector Byte 98} {len : BitVec 7} {k : Byte}
    {pay' : List Byte} (h : result p abuf len k = (false, 4#3)) (hpay' : decodePayload p abuf'.toList = some pay')
    (hchars : abuf.toList.take 11 = abuf'.toList.take 11) : result p abuf' len k = (false, 4#3) := by
  obtain ⟨⟨kind, hk⟩, hlen, pay, hpay⟩ := decoded_of_result_eq_pfxMismatch h
  rw [result_of_decodePayload_eq_pfxMismatch_iff hk hlen hpay']
  rw [result_of_decodePayload_eq_pfxMismatch_iff hk hlen hpay] at h
  rwa [← payPrefix_eq_of_take_eq hpay hpay' hchars]

/-- Settles O38: PREFIX comes after DECODE, and the bytes it compares are those of the first block. -/
theorem prefixRejectDependsOnFirstBlock : Obligations.PrefixRejectDependsOnFirstBlock := by
  unfold Obligations.PrefixRejectDependsOnFirstBlock
  refine ⟨fun p abuf len k h => ?_, fun p abuf abuf' len k pay pay' hpay hpay' hchars => ⟨fun h => ?_, fun h => ?_⟩⟩
  · obtain ⟨-, -, hdecoded⟩ := decoded_of_result_eq_pfxMismatch h
    exact hdecoded
  · exact result_eq_pfxMismatch_of_take_eq h hpay' hchars
  · exact result_eq_pfxMismatch_of_take_eq h hpay hchars.symm

end Sys2Proof.Machine
end

section
/-! PROOF. Reset and the hazards of spec/70_reset_and_hazards.md: what an edge with `rst = 1` does, that a RUN without reset
completes, and that the result is about the string pushed. -/

namespace Sys2Proof.Machine

/-! ## Reset -/

theorem stepWith_of_reset {s : State} (h : s.event = .reset) (p : Params) :
    stepWith p s = .next s.popEdge.resetBlock := by
  simp only [stepWith, h]

@[simp] theorem Status.zero_pack : Status.zero.pack = 0x00 := rfl

/-- Reset is the event of the edges with `rst = 1` and of no other (R140). -/
theorem event_eq_reset_iff {s : State} : s.event = .reset ↔ s.nextEdge.rst = true := by
  refine ⟨fun hevent => ?_, event_eq_reset⟩
  unfold State.event edgeEvent at hevent
  split_ifs at hevent with hrst
  · exact hrst
  · rcases acceptWord_cases s.nextEdge.cmd with ⟨i, -, haccept⟩ | ⟨why, -, haccept⟩ <;>
      rw [haccept] at hevent <;> cases hevent

/-- `CMDERR` is cleared by a reset and nothing else (R19, R140). -/
theorem event_eq_reset_of_cmderr_cleared {s t : State} (hstep : step s = .next t) (hset : s.status.cmderr = true)
    (hclear : t.status.cmderr = false) : s.event = .reset := by
  obtain ⟨hsticky, -, -⟩ := cmderrIsSticky
  have hafter := hsticky s t hstep
  cases hevent : s.event with
  | reset => rfl
  | reserved why => simp [hevent, hclear] at hafter
  | stalled | complete | idle | command i => simp [hevent, hclear, hset] at hafter

/-- Settles O11: `rst = 1` makes the event of the edge a reset, which writes `LEN` and `STATUS`; and the event of an edge that
clears `CMDERR` is a reset. -/
theorem resetEdgeClearsLenAndStatus : Obligations.ResetEdgeClearsLenAndStatus := by
  unfold Obligations.ResetEdgeClearsLenAndStatus
  refine ⟨fun s hrst => ?_, fun s t hstep hset hclear => ?_⟩
  · have hevent := event_eq_reset hrst
    rw [hevent]
    exact ⟨nofun, nofun, s.popEdge.resetBlock, stepWith_of_reset hevent params, rfl, rfl, Status.zero_pack, rfl, rfl⟩
  · exact event_eq_reset_iff.1 (event_eq_reset_of_cmderr_cleared hstep hset hclear)

/-! ## A RUN without reset -/

/-- Edges without reset are waiting edges up to one that lets a RUN complete, listed or idle (R150). -/
theorem exists_allStall_append {es : List Edge} (h : ∀ e ∈ es, e.rst = false) :
    ∃ waits rest : List Edge, es = waits ++ rest ∧ AllStall waits ∧
      (rest.headD Edge.idle).rst = false ∧ (rest.headD Edge.idle).stall = false := by
  induction es with
  | nil => exact ⟨[], [], rfl, nofun, rfl, rfl⟩
  | cons e es ih =>
    obtain ⟨hrst, hes⟩ := List.forall_mem_cons.1 h
    cases hstall : e.stall with
    | false => exact ⟨[], e :: es, rfl, nofun, hrst, hstall⟩
    | true =>
      obtain ⟨waits, rest, rfl, hwaits, hcompletes⟩ := ih hes
      exact ⟨e :: waits, rest, rfl, List.forall_mem_cons.2 ⟨⟨hrst, hstall⟩, hwaits⟩, hcompletes⟩

/-- A RUN in progress waits without a change and completes with `RESULT` of the buffer as it stands (R74, R150). -/
theorem runEdgesWith_of_busy {s : State} {waits rest : List Edge} (hbusy : s.status.busy = true) (hwaits : AllStall waits)
    (hedges : s.edges = waits ++ rest) (hcompletes : CompletesNext (s.setEdges rest)) (p : Params) :
    ∃ t : State, runEdgesWith p (waits.length + 1) s = .next t ∧
      t.status = s.status.afterRun (result p s.abuf s.len s.kreg) ∧ t.abuf = s.abuf ∧ t.len = s.len := by
  obtain ⟨hrst, hstall⟩ := hcompletes
  have hevent : (s.setEdges rest).event = .complete := event_eq_complete hbusy hrst hstall
  obtain ⟨t, hstep, hstatus, habuf, hlen, -⟩ := stepWith_complete_writes_result hevent p
  refine ⟨t, ?_, hstatus, habuf, hlen⟩
  rw [runEdgesWith_of_allStall hbusy hwaits hedges, runEdgesWith_next hstep, runEdgesWith_zero]

/-- Settles O18: the waiting edges are among those listed, and the edge after them completes the RUN. -/
theorem everyRunCompletesWithoutReset : Obligations.EveryRunCompletesWithoutReset := by
  unfold Obligations.EveryRunCompletesWithoutReset
  intro s hbusy hnoReset
  obtain ⟨waits, rest, hedges, hwaits, hcompletes⟩ := exists_allStall_append hnoReset
  obtain ⟨t, hrun, hresult⟩ := runEdgesWith_of_busy hbusy hwaits hedges hcompletes params
  have hbound : waits.length + 1 ≤ s.edges.length + 1 := by simp [hedges]
  exact ⟨waits.length + 1, t, hbound, hrun, hresult⟩

/-! ## The result and the string pushed -/

/-- The source accepts strings of 98 symbols only (R104). -/
theorem validate_of_length_ne {str : List Byte} (h : str.length ≠ 98) (p : Params) (k : Byte) :
    validate p str k = false := by
  unfold validate
  cases kindOf k with
  | none => rfl
  | some kind => simp [h]

/-- Settles O30: a buffer that holds a string shows it to `RESULT` wherever `RESULT` reads. -/
theorem resultIsAboutPushedString : Obligations.ResultIsAboutPushedString := by
  unfold Obligations.ResultIsAboutPushedString
  exact ⟨fun p _ _ k hheld => hheld.result_valid p k, fun p _ k hlen => validate_of_length_ne hlen p k⟩

end Sys2Proof.Machine
end
